-- ==== Sys2Proof/Word.lean ====
section
/-! DEFINITION. The three word widths of the block (spec/00_scope.md R10): the byte every buffer is made of, the
16-bit command word and CRC-16 value, and the 32-bit register access and CRC-32 value. Every quantity is
unsigned (R12). -/

namespace Sys2Proof

/-- One byte: the unit of every buffer (R10). -/
abbrev Byte := BitVec 8

/-- A 16-bit value: a command word, a CRC-16, `be16`'s argument (R10, R13). -/
abbrev Half := BitVec 16

/-- A 32-bit value: the data of a register access, a CRC-32, `be32`'s argument (R10, R13). -/
abbrev Word := BitVec 32

end Sys2Proof
end

