-- ==== Sys2Proof/Syntax.lean ====
section
/-! DEFINITION. The syntax the block understands: the four protocols, the 26 commands (one constructor for each row of
spec/opcode_table.json), the 22 registers of the `REG` map, and what can happen at the host port. -/

namespace Sys2Proof

/-- The closed set of protocols, in the source's order (R3, R92). -/
inductive Protocol where
  | aos
  | ccsds
  | pusTm
  | pusTc
  deriving DecidableEq, Repr

/-- The 26 commands of R98. `um` is the `UM` bit of the word: `true` takes the encode parameters from the `M_*`
registers, `false` takes zero for each (R90, R95). No command has another operand (R93). -/
inductive Instr where
  /-- `CRC32` (R123) -/
  | crc32
  /-- `CRC16` (R129) -/
  | crc16
  /-- `DEC.AOS` (R144) -/
  | decAos
  /-- `DEC.CCSDS` (R174) -/
  | decCcsds
  /-- `DEC.PUS_TM` (R154) -/
  | decPusTm
  /-- `DEC.PUS_TC` (R164) -/
  | decPusTc
  /-- `ENC.AOS`, `ENC.AOS,M` (R146) -/
  | encAos (um : Bool)
  /-- `ENC.CCSDS`, `ENC.CCSDS,M` (R176) -/
  | encCcsds (um : Bool)
  /-- `ENC.PUS_TM`, `ENC.PUS_TM,M` (R156) -/
  | encPusTm (um : Bool)
  /-- `ENC.PUS_TC`, `ENC.PUS_TC,M` (R166) -/
  | encPusTc (um : Bool)
  /-- `CONV.AOS.AOS` (R184) -/
  | convAosAos (um : Bool)
  /-- `CONV.AOS.CCSDS` (R185) -/
  | convAosCcsds (um : Bool)
  /-- `CONV.AOS.PUS_TM` (R186) -/
  | convAosPusTm (um : Bool)
  /-- `CONV.AOS.PUS_TC` (R187) -/
  | convAosPusTc (um : Bool)
  /-- `CONV.CCSDS.AOS` (R188) -/
  | convCcsdsAos (um : Bool)
  /-- `CONV.CCSDS.CCSDS` (R189) -/
  | convCcsdsCcsds (um : Bool)
  /-- `CONV.CCSDS.PUS_TM` (R190) -/
  | convCcsdsPusTm (um : Bool)
  /-- `CONV.CCSDS.PUS_TC` (R191) -/
  | convCcsdsPusTc (um : Bool)
  /-- `CONV.PUS_TM.AOS` (R192) -/
  | convPusTmAos (um : Bool)
  /-- `CONV.PUS_TM.CCSDS` (R193) -/
  | convPusTmCcsds (um : Bool)
  /-- `CONV.PUS_TM.PUS_TM` (R194) -/
  | convPusTmPusTm (um : Bool)
  /-- `CONV.PUS_TM.PUS_TC` (R195) -/
  | convPusTmPusTc (um : Bool)
  /-- `CONV.PUS_TC.AOS` (R196) -/
  | convPusTcAos (um : Bool)
  /-- `CONV.PUS_TC.CCSDS` (R197) -/
  | convPusTcCcsds (um : Bool)
  /-- `CONV.PUS_TC.PUS_TM` (R198) -/
  | convPusTcPusTm (um : Bool)
  /-- `CONV.PUS_TC.PUS_TC` (R199) -/
  | convPusTcPusTc (um : Bool)
  deriving DecidableEq, Repr

/-- The four address spaces of the host port; R60 numbers them 0 to 3 in this order. -/
inductive Space where
  | reg
  | ibuf
  | obuf
  | hbuf
  deriving DecidableEq, Repr

/-- The 22 registers of the `REG` map (R61), in the order of their offsets. -/
inductive Reg where
  | cmd
  | status
  | ilen
  | olen
  | hlen
  | crcCalc
  | crcRcvd
  | mScid
  | mVcid
  | mSvc
  | mSubsvc
  | mPtype
  | mApid
  | mSeq
  | xScid
  | xVcid
  | xSvc
  | xSubsvc
  | xTsmark
  | xPtype
  | xApid
  | xPlen
  deriving DecidableEq, Repr

/-- One host access: `MemRead(space, addr, n)` or `MemWrite(space, addr, n, v)` (R60). The port carries 32 data bits;
an access of size 1 carries its byte in the low 8 of them (assumption 7). -/
inductive Access where
  | read (space : Space) (addr : Nat) (size : Nat)
  | write (space : Space) (addr : Nat) (size : Nat) (data : Word)
  deriving DecidableEq, Repr

/-- What can reach the block from outside: a host access (R16), or the reset input, which may be applied between any
two host accesses (R240). -/
inductive PortEvent where
  | access (a : Access)
  | reset
  deriving DecidableEq, Repr

end Sys2Proof
end

