-- ==== Sys2Proof/WellFormed.lean ====
section
/-! DEFINITION. What makes a term of the syntax well formed. A command has no operand but its `UM` bit (R93), so every
term of `Instr` is well formed; the checks that can fail are those on the SHAPE of a host access, the parts of R66
that need no state: its size (h), its `REG` offset (b), and that it writes no result buffer (g). -/

namespace Sys2Proof

/-- Every command of the closed syntax is well formed: `UM` is one bit and every value of it is a command word
(R93, R98). -/
def Instr.wellFormed (_ : Instr) : Bool := true

/-- The space of an access (R60). -/
def Access.space : Access → Space
  | .read sp _ _ => sp
  | .write sp _ _ _ => sp

/-- The address of an access within its space (R60). -/
def Access.addr : Access → Nat
  | .read _ a _ => a
  | .write _ a _ _ => a

/-- The size of an access in bytes (R60). -/
def Access.size : Access → Nat
  | .read _ _ n => n
  | .write _ _ n _ => n

/-- R60 and R66 (h): `n = 4` for `REG`, `n = 1` for the three buffers. -/
def Access.sizeOk (a : Access) : Bool :=
  a.size == match a.space with
    | .reg => 4
    | _ => 1

/-- R61 and R66 (b): a `REG` offset is one of the 22 listed multiples of 4. -/
def Access.offsetOk (a : Access) : Bool :=
  match a.space with
  | .reg => decide (a.addr % 4 = 0 ∧ a.addr ≤ 0x5C ∧ a.addr ≠ 0x1C ∧ a.addr ≠ 0x3C)
  | _ => true

/-- R66 (g): no access writes `OBUF` or `HBUF`. -/
def Access.targetOk : Access → Bool
  | .write .obuf _ _ _ => false
  | .write .hbuf _ _ _ => false
  | _ => true

/-- The shape of the access is one R60 and R61 provide. -/
def Access.wellFormed (a : Access) : Bool := a.sizeOk && a.offsetOk && a.targetOk

end Sys2Proof
end

