-- ==== Sys2Proof/Decode.lean ====
section
/-! DEFINITION. The command word: its fields (R90), its legality (R94), its decoding in the order of R97 (legality,
then known tags, then the operation), the encoder, and the `match` and `mask` columns of R98. Decoding is total on
the 32-bit words a host can write to `CMD`; a word that is no command is rejected by the name of the error it raises. -/

namespace Sys2Proof

/-- Why a written word is no command: the two errors that precede the reading of any input (R97 steps 2 and 3). -/
inductive Reject where
  /-- `legal(w)` fails (R94, R215). -/
  | illegalCommand
  /-- A used tag field of a legal word holds 4 to 15 (R96, R212). -/
  | formatUnknown
  deriving DecidableEq, Repr

/-- `OP`, bits 15:12 (R90). -/
def opField (w : Word) : BitVec 4 := w.extractLsb' 12 4

/-- `RSV`, bits 11:9 (R90). -/
def rsvField (w : Word) : BitVec 3 := w.extractLsb' 9 3

/-- `UM`, bit 8 (R90). -/
def umField (w : Word) : Bool := w.getLsbD 8

/-- `SRC`, bits 7:4 (R90). -/
def srcField (w : Word) : BitVec 4 := w.extractLsb' 4 4

/-- `TGT`, bits 3:0 (R90). -/
def tgtField (w : Word) : BitVec 4 := w.extractLsb' 0 4

/-- Bits 31:16 of the written word, which must be 0 (R90). -/
def upperField (w : Word) : Half := w.extractLsb' 16 16

/-- `c = w[15:0]`, the command word (R90). -/
def commandOf (w : Word) : Half := w.extractLsb' 0 16

/-- `legal(w)` (R94): nothing outside the fields the operation uses, and an operation that exists. -/
def legal (w : Word) : Bool :=
  upperField w == 0 && rsvField w == 0 &&
    match (opField w).toNat with
    | 1 => !umField w && srcField w == 0 && tgtField w == 0
    | 2 => !umField w && srcField w == 0 && tgtField w == 0
    | 3 => !umField w && tgtField w == 0
    | 4 => srcField w == 0
    | 5 => true
    | _ => false

/-- The protocol a tag names (R92); 4 to 15 name none. -/
def protocolOfTag (t : BitVec 4) : Option Protocol :=
  match t.toNat with
  | 0 => some .aos
  | 1 => some .ccsds
  | 2 => some .pusTm
  | 3 => some .pusTc
  | _ => none

/-- The numeric tag of a protocol (R92). -/
def tagOf : Protocol → BitVec 4
  | .aos => 0
  | .ccsds => 1
  | .pusTm => 2
  | .pusTc => 3

/-- `unknown_tag(c)` (R96), meant for a legal word: a used tag field holds more than 3. -/
def unknownTag (w : Word) : Bool :=
  match (opField w).toNat with
  | 3 => decide (3 < (srcField w).toNat)
  | 4 => decide (3 < (tgtField w).toNat)
  | 5 => decide (3 < (srcField w).toNat) || decide (3 < (tgtField w).toNat)
  | _ => false

/-- `DEC.P`. -/
def decInstr : Protocol → Instr
  | .aos => .decAos
  | .ccsds => .decCcsds
  | .pusTm => .decPusTm
  | .pusTc => .decPusTc

/-- `ENC.P` with its `UM` bit. -/
def encInstr (um : Bool) : Protocol → Instr
  | .aos => .encAos um
  | .ccsds => .encCcsds um
  | .pusTm => .encPusTm um
  | .pusTc => .encPusTc um

/-- `CONV.S.T` with its `UM` bit. -/
def convInstr (um : Bool) : Protocol → Protocol → Instr
  | .aos, .aos => .convAosAos um
  | .aos, .ccsds => .convAosCcsds um
  | .aos, .pusTm => .convAosPusTm um
  | .aos, .pusTc => .convAosPusTc um
  | .ccsds, .aos => .convCcsdsAos um
  | .ccsds, .ccsds => .convCcsdsCcsds um
  | .ccsds, .pusTm => .convCcsdsPusTm um
  | .ccsds, .pusTc => .convCcsdsPusTc um
  | .pusTm, .aos => .convPusTmAos um
  | .pusTm, .ccsds => .convPusTmCcsds um
  | .pusTm, .pusTm => .convPusTmPusTm um
  | .pusTm, .pusTc => .convPusTmPusTc um
  | .pusTc, .aos => .convPusTcAos um
  | .pusTc, .ccsds => .convPusTcCcsds um
  | .pusTc, .pusTm => .convPusTcPusTm um
  | .pusTc, .pusTc => .convPusTcPusTc um

/-- The operation of a word whose legality and tags have been checked; the two fallbacks repeat those checks, so a
reserved operation or tag can never fall through to a neighbouring command (R91, R92). -/
def decodeOperation (w : Word) : Except Reject Instr :=
  match (opField w).toNat with
  | 1 => .ok .crc32
  | 2 => .ok .crc16
  | 3 =>
    match protocolOfTag (srcField w) with
    | some p => .ok (decInstr p)
    | none => .error .formatUnknown
  | 4 =>
    match protocolOfTag (tgtField w) with
    | some p => .ok (encInstr (umField w) p)
    | none => .error .formatUnknown
  | 5 =>
    match protocolOfTag (srcField w), protocolOfTag (tgtField w) with
    | some s, some t => .ok (convInstr (umField w) s t)
    | _, _ => .error .formatUnknown
  | _ => .error .illegalCommand

/-- The command a written word selects, or the error it raises, in the order of R97: `IllegalCommand` first, then
`FormatUnknown` (R218). -/
def decode (w : Word) : Except Reject Instr :=
  if legal w then
    if unknownTag w then .error .formatUnknown else decodeOperation w
  else .error .illegalCommand

/-- `OP << 12 | UM << 8 | SRC << 4 | TGT` with `RSV = 0` (R110). -/
def commandWord (op : BitVec 4) (um : Bool) (src tgt : BitVec 4) : Half :=
  op ++ (0 : BitVec 3) ++ BitVec.ofBool um ++ src ++ tgt

/-- The word of `DEC.P`: `OP = 3`, `SRC = P` (R91). -/
def decWord (p : Protocol) : Half := commandWord 3 false (tagOf p) 0

/-- The word of `ENC.P`: `OP = 4`, `TGT = P` (R91). -/
def encWord (p : Protocol) (um : Bool) : Half := commandWord 4 um 0 (tagOf p)

/-- The word of `CONV.S.T`: `OP = 5` (R91, R184). -/
def convWord (s t : Protocol) (um : Bool) : Half := commandWord 5 um (tagOf s) (tagOf t)

/-- The command word of a command (R98, column "words"). -/
def encode : Instr → Half
  | .crc32 => commandWord 1 false 0 0
  | .crc16 => commandWord 2 false 0 0
  | .decAos => decWord .aos
  | .decCcsds => decWord .ccsds
  | .decPusTm => decWord .pusTm
  | .decPusTc => decWord .pusTc
  | .encAos um => encWord .aos um
  | .encCcsds um => encWord .ccsds um
  | .encPusTm um => encWord .pusTm um
  | .encPusTc um => encWord .pusTc um
  | .convAosAos um => convWord .aos .aos um
  | .convAosCcsds um => convWord .aos .ccsds um
  | .convAosPusTm um => convWord .aos .pusTm um
  | .convAosPusTc um => convWord .aos .pusTc um
  | .convCcsdsAos um => convWord .ccsds .aos um
  | .convCcsdsCcsds um => convWord .ccsds .ccsds um
  | .convCcsdsPusTm um => convWord .ccsds .pusTm um
  | .convCcsdsPusTc um => convWord .ccsds .pusTc um
  | .convPusTmAos um => convWord .pusTm .aos um
  | .convPusTmCcsds um => convWord .pusTm .ccsds um
  | .convPusTmPusTm um => convWord .pusTm .pusTm um
  | .convPusTmPusTc um => convWord .pusTm .pusTc um
  | .convPusTcAos um => convWord .pusTc .aos um
  | .convPusTcCcsds um => convWord .pusTc .ccsds um
  | .convPusTcPusTm um => convWord .pusTc .pusTm um
  | .convPusTcPusTc um => convWord .pusTc .pusTc um

/-- The `UM` bit of a command; commands without the field have it 0 (R91). -/
def Instr.um (i : Instr) : Bool := (encode i).getLsbD 8

/-- The `match` column of R98, written out from the table. -/
def opcodeMatch : Instr → Half
  | .crc32 => 0x1000
  | .crc16 => 0x2000
  | .decAos => 0x3000
  | .decCcsds => 0x3010
  | .decPusTm => 0x3020
  | .decPusTc => 0x3030
  | .encAos _ => 0x4000
  | .encCcsds _ => 0x4001
  | .encPusTm _ => 0x4002
  | .encPusTc _ => 0x4003
  | .convAosAos _ => 0x5000
  | .convAosCcsds _ => 0x5001
  | .convAosPusTm _ => 0x5002
  | .convAosPusTc _ => 0x5003
  | .convCcsdsAos _ => 0x5010
  | .convCcsdsCcsds _ => 0x5011
  | .convCcsdsPusTm _ => 0x5012
  | .convCcsdsPusTc _ => 0x5013
  | .convPusTmAos _ => 0x5020
  | .convPusTmCcsds _ => 0x5021
  | .convPusTmPusTm _ => 0x5022
  | .convPusTmPusTc _ => 0x5023
  | .convPusTcAos _ => 0x5030
  | .convPusTcCcsds _ => 0x5031
  | .convPusTcPusTm _ => 0x5032
  | .convPusTcPusTc _ => 0x5033

/-- The `mask` column of R98: every bit for the checksum and decode commands, every bit but `UM` for the others. -/
def opcodeMask : Instr → Half
  | .crc32 => 0xFFFF
  | .crc16 => 0xFFFF
  | .decAos => 0xFFFF
  | .decCcsds => 0xFFFF
  | .decPusTm => 0xFFFF
  | .decPusTc => 0xFFFF
  | .encAos _ => 0xFEFF
  | .encCcsds _ => 0xFEFF
  | .encPusTm _ => 0xFEFF
  | .encPusTc _ => 0xFEFF
  | .convAosAos _ => 0xFEFF
  | .convAosCcsds _ => 0xFEFF
  | .convAosPusTm _ => 0xFEFF
  | .convAosPusTc _ => 0xFEFF
  | .convCcsdsAos _ => 0xFEFF
  | .convCcsdsCcsds _ => 0xFEFF
  | .convCcsdsPusTm _ => 0xFEFF
  | .convCcsdsPusTc _ => 0xFEFF
  | .convPusTmAos _ => 0xFEFF
  | .convPusTmCcsds _ => 0xFEFF
  | .convPusTmPusTm _ => 0xFEFF
  | .convPusTmPusTc _ => 0xFEFF
  | .convPusTcAos _ => 0xFEFF
  | .convPusTcCcsds _ => 0xFEFF
  | .convPusTcPusTm _ => 0xFEFF
  | .convPusTcPusTc _ => 0xFEFF

/-- The command the decoder reads from a table word of `nbits` bits: the word is what the host writes to `CMD`, with
every bit above the row's own 0 (a command is one word in one write, R100). -/
def decodeTableWord (nbits w : Nat) : Option Instr :=
  match decode (BitVec.ofNat 32 (w % 2 ^ nbits)) with
  | .ok i => some i
  | .error _ => none

end Sys2Proof
end

