-- ==== Sys2Proof/Machine/Bytes.lean ====
section
/-! DEFINITION. The four byte-order conversions of the block, all big-endian (R13, R70), and the reading of one byte
of a sequence. -/

namespace Sys2Proof.Machine

/-- `s[i]` (R13). Every rule reads a fixed offset only after a length check (R68), so the value past the end is
never used (assumption 13). -/
def byteAt (s : List Byte) (i : Nat) : Byte := s.getD i 0

/-- `be16(v)`: the two bytes of `v`, most significant first (R13). -/
def be16 (v : Half) : List Byte := [v.extractLsb' 8 8, v.extractLsb' 0 8]

/-- `be32(v)`: the four bytes of `v`, most significant first (R13). -/
def be32 (v : Word) : List Byte :=
  [v.extractLsb' 24 8, v.extractLsb' 16 8, v.extractLsb' 8 8, v.extractLsb' 0 8]

/-- `u16be(s)` of a 2-byte sequence: `s[0] * 256 + s[1]` (R13). -/
def u16be (s : List Byte) : Half := byteAt s 0 ++ byteAt s 1

/-- `u32be(s)` of a 4-byte sequence: `s[0] * 2^24 + s[1] * 2^16 + s[2] * 2^8 + s[3]` (R13). -/
def u32be (s : List Byte) : Word := byteAt s 0 ++ byteAt s 1 ++ byteAt s 2 ++ byteAt s 3

/-- `zeros(n)`: `n` bytes of value 0 (R13). -/
def zeros (n : Nat) : List Byte := List.replicate n 0

end Sys2Proof.Machine
end

