-- ==== Sys2Proof/Machine/Crc.lean ====
section
/-! DEFINITION. The two checksum generators (R120, R124), and beside each the other forms in which the spec gives the
same function: the table-driven forms (R121, R127), the serial shift register (R126) and the unbounded form that
truncates once at the end (R125). The meanings use only `crc32Ieee` and `crc16Ccitt`. -/

namespace Sys2Proof.Machine

/-- `n` applications of one shift step ("repeat 8 times" with `n = 8`). -/
def shiftTimes {α : Type} (f : α → α) : Nat → α → α
  | 0, a => a
  | n + 1, a => shiftTimes f n (f a)

/-- `crc32_bit` (R120). -/
def crc32Bit (c : Word) : Word :=
  if c.getLsbD 0 then (c >>> 1) ^^^ 0xEDB88320 else c >>> 1

/-- `crc32_byte` (R120): the byte enters bits 7:0. -/
def crc32Byte (c : Word) (b : Byte) : Word := shiftTimes crc32Bit 8 (c ^^^ b.setWidth 32)

/-- `crc32_ieee` (R120). The spec supplies the algorithm from general knowledge and marks it so (assumption 6). -/
def crc32Ieee (s : List Byte) : Word := s.foldl crc32Byte 0xFFFFFFFF ^^^ 0xFFFFFFFF

/-- `crc16_bit` (R124): bits shifted out of bit 15 are discarded. -/
def crc16Bit (c : Half) : Half :=
  if c.getLsbD 15 then (c <<< 1) ^^^ 0x1021 else c <<< 1

/-- `crc16_byte` (R124): the byte enters bits 15:8. -/
def crc16Byte (c : Half) (b : Byte) : Half := shiftTimes crc16Bit 8 (c ^^^ (b.setWidth 16 <<< 8))

/-- `crc16_ccitt` (R124): no reflection and no final inversion. -/
def crc16Ccitt (s : List Byte) : Half := s.foldl crc16Byte 0xFFFF

/-- `T32[i]` (R121): eight applications of `crc32_bit` to `zext_32(i)`. -/
def crc32Table (i : Byte) : Word := shiftTimes crc32Bit 8 (i.setWidth 32)

/-- The table-driven CRC-32 byte step (R121). -/
def crc32ByteTable (c : Word) (b : Byte) : Word := (c >>> 8) ^^^ crc32Table (c.setWidth 8 ^^^ b)

/-- `T16[i]` (R127): eight applications of `crc16_bit` to `i << 8`. -/
def crc16Table (i : Byte) : Half := shiftTimes crc16Bit 8 (i.setWidth 16 <<< 8)

/-- The table-driven CRC-16 byte step (R127). -/
def crc16ByteTable (c : Half) (b : Byte) : Half :=
  (c <<< 8) ^^^ crc16Table ((c >>> 8).setWidth 8 ^^^ b)

/-- One clock of the serial shift register (R126) with data bit `d`. -/
def crc16SerialBit (c : Half) (d : Bool) : Half :=
  if c.getLsbD 15 ^^ d then (c <<< 1) ^^^ 0x1021 else c <<< 1

/-- One byte through the serial shift register, bit 7 first (R126). -/
def crc16ByteSerial (c : Half) (b : Byte) : Half :=
  [7, 6, 5, 4, 3, 2, 1, 0].foldl (fun c k => crc16SerialBit c (b.getLsbD k)) c

/-- `crc16_bit` on an unbounded number, testing bit 15 exactly (R125). -/
def crc16LateBit (c : Nat) : Nat := if c.testBit 15 then (c <<< 1) ^^^ 0x1021 else c <<< 1

/-- `crc16_byte` on an unbounded number (R125). -/
def crc16LateByte (c : Nat) (b : Byte) : Nat := shiftTimes crc16LateBit 8 (c ^^^ (b.toNat <<< 8))

/-- The source's own text of CRC-16: unbounded, truncated once at the end by `crc & 0xFFFF` (R124, R125). -/
def crc16Late (s : List Byte) : Half := BitVec.ofNat 16 (s.foldl crc16LateByte 0xFFFF)

end Sys2Proof.Machine
end

