-- ==== Sys2Proof/Machine/Layout.lean ====
section
/-! DEFINITION. The constants of the block: the FrameLayout table (R46) and the AOS magic prefix (R143). They are part
of the hardware and not state (R46, R47). -/

namespace Sys2Proof.Machine

/-- The two checksum algorithms (R46, column `crcAlgorithm`). -/
inductive CrcKind where
  /-- CRC-32, `crc32_ieee` -/
  | crc32
  /-- CRC-16, `crc16_ccitt` -/
  | crc16
  deriving DecidableEq, Repr

/-- A row of the FrameLayout table (R46). -/
structure FrameLayout where
  headerLength : Nat
  crcWidth : Nat
  crcAlgorithm : CrcKind
  deriving DecidableEq, Repr

/-- `minimumTotalLength = headerLength + crcWidth` (R46). -/
def FrameLayout.minimumTotalLength (l : FrameLayout) : Nat := l.headerLength + l.crcWidth

/-- AOS: 3-byte header, CRC-32 trailer (R46, R140). -/
def layoutAos : FrameLayout := ⟨3, 4, .crc32⟩

/-- CCSDS: 9-byte header, CRC-32 trailer (R46, R170). -/
def layoutCcsds : FrameLayout := ⟨9, 4, .crc32⟩

/-- PUS_TM: 12-byte header, CRC-16 trailer (R46, R150). -/
def layoutPusTm : FrameLayout := ⟨12, 2, .crc16⟩

/-- PUS_TC: 10-byte header, CRC-16 trailer (R46, R160). -/
def layoutPusTc : FrameLayout := ⟨10, 2, .crc16⟩

/-- The FrameLayout table by protocol (R46). -/
def layout : Protocol → FrameLayout
  | .aos => layoutAos
  | .ccsds => layoutCcsds
  | .pusTm => layoutPusTm
  | .pusTc => layoutPusTc

/-- The three bytes AOS decode strips from the front of a payload (R143). -/
def magicPrefix : List Byte := [0x00, 0x7B, 0x7C]

end Sys2Proof.Machine
end

