-- ==== Sys2Proof/Machine/Flags.lean ====
section
/-! DEFINITION. `STATUS`, the block's only flag register (R24, R40): the error kinds and the value each outcome writes
(R211). The block has no arithmetic flag (R40, R101). -/

namespace Sys2Proof.Machine

/-- The two failures of a `decode` (R142, R152, R162, R172). -/
inductive DecodeError where
  /-- the buffer is below the protocol's minimum total length (R213) -/
  | tooShort
  /-- the recomputed CRC differs from the embedded one (R214) -/
  | checksumMismatch
  deriving DecidableEq, Repr

/-- The five error kinds of a command (R210, R211). -/
inductive CmdError where
  | formatUnknown
  | tooShort
  | checksumMismatch
  | conversionFailed (cause : DecodeError)
  | illegalCommand
  deriving DecidableEq, Repr

/-- A decode failure raised bare, as `DEC.P` raises it (R211). -/
def DecodeError.bare : DecodeError → CmdError
  | .tooShort => .tooShort
  | .checksumMismatch => .checksumMismatch

/-- `ERR`, `STATUS[3:0]` (R24). -/
def CmdError.err : CmdError → BitVec 4
  | .formatUnknown => 1
  | .tooShort => 2
  | .checksumMismatch => 3
  | .conversionFailed _ => 4
  | .illegalCommand => 5

/-- `CAUSE`, `STATUS[7:4]`: the wrapped failure in the `ERR` numbering, 0 for the other kinds (R24, R217). -/
def CmdError.cause : CmdError → BitVec 4
  | .conversionFailed k => k.bare.err
  | _ => 0

/-- `STATUS` with `DONE = 1` and the given `CAUSE` and `ERR` (R24). -/
def statusOf (cause err : BitVec 4) : BitVec 9 := (1 : BitVec 1) ++ cause ++ err

/-- `STATUS` after a normal end, `0x100` (R97 step 6, R211). -/
def successStatus : BitVec 9 := statusOf 0 0

/-- `code(E)`: `STATUS` after a command that raised `e` (R97, R211). -/
def CmdError.code (e : CmdError) : BitVec 9 := statusOf e.cause e.err

end Sys2Proof.Machine
end

