-- ==== Sys2Proof/Config.lean ====
section
/-! DEFINITION. What an implementation fixes and the spec leaves open. Every constant here is opaque: no proof can
see its value, so a claim holds whatever the implementation chose.

* `cap`: the capacity `CAP` of the input buffer, OPEN with `CAP >= 14` (R10, D2; assumption 1).
* `leftC32` and its three companions: what the hidden working registers of the checksum generators hold between
  commands, which the spec leaves open (R41, R48, U9; assumption 3).
* `wideLength`: what a 32-bit read of a length register gives for a length of 2^32 or more, which the spec does not
  state (R10 against R61; assumption 5), and the data of the `WR ILEN, n` of such a length (assumption 15). -/

namespace Sys2Proof.Config

/-- How much larger than the smallest allowed value 14 the capacity is (R10: `CAP >= 14`). -/
opaque capExtra : Nat

/-- `CAP`: the capacity of `IBUF` in bytes, any number that is at least 14 (R10). -/
def cap : Nat := capExtra + 14

/-- FREE VALUE: what `C32` holds after the `n`-th computation (U9). -/
opaque leftC32 : Nat → Word

/-- FREE VALUE: what `C16` holds after the `n`-th computation (U9). -/
opaque leftC16 : Nat → Half

/-- FREE VALUE: what the 3-bit shift count holds after the `n`-th computation (U9). -/
opaque leftBitCount : Nat → BitVec 3

/-- FREE VALUE: what the byte index holds after the `n`-th computation (U9). -/
opaque leftByteIndex : Nat → Nat

/-- FREE VALUE: the word read from a length register, or written to `ILEN` by a driver's line, when the length does not fit 32
bits. -/
opaque wideLength : Nat → Word

end Sys2Proof.Config
end

