-- ==== Sys2Proof/Machine/State.lean ====
section
/-! DEFINITION. The state of the block (R20, R41) with the model's own fields around it, the state after reset (R48),
and the reasons a step can stop. -/

namespace Sys2Proof.Machine

/-- `meta`: the seven encode parameters, and as registers the seven `M_*` (R15, R30). -/
structure Meta where
  /-- `M_SCID`, 16 bits -/
  scid : Half
  /-- `M_VCID`, 8 bits -/
  vcid : Byte
  /-- `M_SVC`, 8 bits -/
  svc : Byte
  /-- `M_SUBSVC`, 8 bits -/
  subsvc : Byte
  /-- `M_PTYPE`, 8 bits -/
  ptype : Byte
  /-- `M_APID`, 8 bits -/
  apid : Byte
  /-- `M_SEQ`, 16 bits -/
  seq : Half
  deriving DecidableEq, Repr

/-- `meta0`, the source's defaults: all seven parameters 0 (R15). -/
def Meta.zero : Meta := ⟨0, 0, 0, 0, 0, 0, 0⟩

/-- The eight extracted-field registers `X_*` (R31). -/
structure Extracted where
  /-- `X_SCID`, 16 bits -/
  scid : Half
  /-- `X_VCID`, 8 bits -/
  vcid : Byte
  /-- `X_SVC`, 8 bits -/
  svc : Byte
  /-- `X_SUBSVC`, 8 bits -/
  subsvc : Byte
  /-- `X_TSMARK`, 8 bits -/
  tsmark : Byte
  /-- `X_PTYPE`, 8 bits -/
  ptype : Byte
  /-- `X_APID`, 8 bits -/
  apid : Byte
  /-- `X_PLEN`, 16 bits -/
  plen : Half
  deriving DecidableEq, Repr

/-- Every `X_*` register 0, their cleared and their reset value (R31, R97 step 1). -/
def Extracted.zero : Extracted := ⟨0, 0, 0, 0, 0, 0, 0, 0⟩

/-- The hidden working registers of the two checksum generators (R41). The spec leaves open what they hold between
commands (U9), so each computation leaves FREE VALUES in them; no rule and no meaning reads them (assumption 3). -/
structure Hidden where
  /-- `C32`, the 32-bit working register of the CRC-32 generator -/
  c32 : Word
  /-- `C16`, the 16-bit working register of the CRC-16 generator -/
  c16 : Half
  /-- the 3-bit count of the shifts of one byte -/
  bitCount : BitVec 3
  /-- the byte index into the range being summed -/
  byteIndex : Nat
  /-- MODEL'S OWN: how many free values have been drawn, so that each draw is a fresh one -/
  draws : Nat
  deriving DecidableEq, Repr

/-- The cells of a byte buffer: one entry for each WRITTEN cell, addresses strictly rising (R32). An address with no
entry is an unwritten cell and holds no value. -/
abbrev Memory := List Host.Cell

/-- The block. Fields marked MODEL'S OWN are not registers of the block. -/
structure State where
  /-- MODEL'S OWN: the implementation parameter `CAP` (R10, R47); no step changes it (assumption 1) -/
  cap : Nat
  /-- `CMD`, 16 bits (R23) -/
  cmd : Half
  /-- `STATUS`, 9 bits: `DONE` 8, `CAUSE` 7:4, `ERR` 3:0; bits 31:9 read as zero (R24, R61) -/
  status : BitVec 9
  /-- `ILEN`, a natural number up to `CAP` (R25) -/
  ilen : Nat
  /-- `CRC_CALC`, 32 bits (R28) -/
  crcCalc : Word
  /-- `CRC_RCVD`, 32 bits (R29) -/
  crcRcvd : Word
  /-- the seven `M_*` registers (R30) -/
  m : Meta
  /-- the eight `X_*` registers (R31) -/
  x : Extracted
  /-- `IBUF`, `CAP` cells, each unwritten or holding a byte (R32) -/
  ibuf : Memory
  /-- `OBUF`; `OLEN` is its length (R26, R33) -/
  obuf : List Byte
  /-- `HBUF`; `HLEN` is its length (R27, R34) -/
  hbuf : List Byte
  /-- `C32`, `C16` and their counters (R41) -/
  hidden : Hidden
  /-- MODEL'S OWN: what the outside still has to do at the port, first to happen first (R16, R75; assumption 2) -/
  port : List PortEvent
  /-- MODEL'S OWN: the values the host's reads returned, oldest first, zero-extended to 32 bits (assumption 2) -/
  replies : List Word
  deriving DecidableEq, Repr

/-- The state after reset (R48, R240): no input, default metadata, no result, every `IBUF` cell unwritten. The hidden
registers have no stated value: zero is named here (assumption 4). -/
def State.reset : State where
  cap := Config.cap
  cmd := 0x0000
  status := 0x000
  ilen := 0
  crcCalc := 0
  crcRcvd := 0
  m := Meta.zero
  x := Extracted.zero
  ibuf := []
  obuf := []
  hbuf := []
  hidden := ⟨0, 0, 0, 0, 0⟩
  port := []
  replies := []

/-- There is no fault: an error of a command is an ordinary result in `STATUS`, and the block has no stuck state
(R19, R228). The spec's own word for an access with no outcome is a refusal (R66; assumption 8). -/
inductive Fault where
  deriving DecidableEq, Repr

/-- Why a step has no next state: the accesses of R66 that a host must never make, each safe because the model gives
the access no outcome at all (assumptions 8, 9 and 14). -/
inductive Refusal where
  /-- Raised by `exec` for a command that has no meaning yet; safe. No arm of this model uses it. -/
  | notModelled (mnemonic : String)
  /-- R66 (a): raised by a write of `ILEN` with a value above `CAP`; safe. -/
  | ilenBeyondCapacity
  /-- R66 (b): raised by a `REG` access at an offset that is not a multiple of 4; safe. -/
  | unalignedOffset
  /-- R66 (b): raised by a `REG` access at a reserved offset (`0x1C`, `0x3C`, above `0x5C`); safe. -/
  | reservedOffset
  /-- R66 (c): raised by an `IBUF` access at `CAP` or above; safe. -/
  | ibufOutOfRange
  /-- R66 (d): raised by a read of an unwritten `IBUF` cell; safe. -/
  | unwrittenCell
  /-- R66 (e): raised by a read of `OBUF` at `OLEN` or above; safe. -/
  | obufOutOfRange
  /-- R66 (f): raised by a read of `HBUF` at `HLEN` or above; safe. -/
  | hbufOutOfRange
  /-- R66 (g): raised by any write to `OBUF` or `HBUF`; safe. -/
  | resultBufferWrite
  /-- R66 (h): raised by an access whose size is not its space's own; safe. -/
  | wrongSize
  /-- R66 (i): raised by a command that takes its input while a cell of `IBUF[0..ILEN)` is unwritten; safe. -/
  | unwrittenInput
  deriving DecidableEq, Repr

end Sys2Proof.Machine
end

