-- ==== Sys2Proof/Machine/Ops.lean ====
section
/-! DEFINITION. The named operations on buffers and registers, the normal end of a command (R97 step 6), and the raising
of an error, which is what this block has for an exception (R216). -/

namespace Sys2Proof.Machine

/-- The canonical form of `IBUF`: addresses strictly rising. An unwritten cell has no entry, so two buffers with the
same cells are the same list. -/
abbrev Memory.wf (m : Memory) : Prop := m.Pairwise (fun p q => p.1 < q.1)

/-- The byte a cell holds, `none` for an unwritten cell (R32, R62). -/
def Memory.read : Memory → Nat → Option Byte
  | [], _ => none
  | (k, b) :: rest, a => if k = a then some b else Memory.read rest a

/-- `MemWrite(IBUF, a, 1, b)`: cell `a` becomes written and holds `b` (R62). -/
def Memory.write : Memory → Nat → Byte → Memory
  | [], a, b => [(a, b)]
  | (k, c) :: rest, a, b =>
    if a < k then (a, b) :: (k, c) :: rest
    else if k = a then (a, b) :: rest
    else (k, c) :: Memory.write rest a b

/-- The `n` bytes from cell `a` on, in ascending order; `none` when one of the cells is unwritten (R32, R68). -/
def Memory.bytesFrom (m : Memory) : Nat → Nat → Option (List Byte)
  | _, 0 => some []
  | a, n + 1 =>
    match m.read a with
    | none => none
    | some b =>
      match Memory.bytesFrom m (a + 1) n with
      | none => none
      | some bs => some (b :: bs)

/-- R97 step 1: `OBUF`, `HBUF` empty, every `X_*`, `CRC_CALC` and `CRC_RCVD` zero. -/
def State.clearResults (s : State) : State :=
  { s with obuf := [], hbuf := [], x := Extracted.zero, crcCalc := 0, crcRcvd := 0 }

/-- The normal end of a command whose word is `c`: `STATUS <- 0x100; CMD <- c` (R97 step 6). -/
def State.finish (c : Half) (s : State) : State := { s with status := successStatus, cmd := c }

/-- A command whose word is `c` raises `e` (R97 step 6, R216): every result cleared, `STATUS <- code(e)`,
`CMD <- c`, the input state untouched. Nothing is saved elsewhere, no mode changes and control goes nowhere, so there
is no return from an error either: the next command replaces it (R219). -/
def State.raise (e : CmdError) (c : Half) (s : State) : State :=
  { s.clearResults with status := e.code, cmd := c }

/-- A checksum computation has run: the hidden working registers hold fresh FREE VALUES (R41, U9; assumption 3). -/
def Hidden.draw (h : Hidden) : Hidden where
  c32 := Config.leftC32 h.draws
  c16 := Config.leftC16 h.draws
  bitCount := Config.leftBitCount h.draws
  byteIndex := Config.leftByteIndex h.draws
  draws := h.draws + 1

/-- The state after the checksum generators have run once more. -/
def State.drawHidden (s : State) : State := { s with hidden := s.hidden.draw }

end Sys2Proof.Machine
end

