-- ==== Sys2Proof/Machine/Operands.lean ====
section
/-! DEFINITION. The two operands a command has, both implicit (R93): the input bytes and the metadata record. -/

namespace Sys2Proof.Machine

/-- `IBUF[0..ILEN)`: the `raw` of `CRC32`, `CRC16`, `DEC` and `CONV`, the `payload` of `ENC` (R32). It has no value
when one of its cells is unwritten (R66 (i)). -/
def State.input (s : State) : Option (List Byte) := s.ibuf.bytesFrom 0 s.ilen

/-- `meta(c)` (R95): the `M_*` registers with `UM = 1`, all zero with `UM = 0`, when they are not read at all. -/
def State.metaOf (um : Bool) (s : State) : Meta := if um then s.m else Meta.zero

end Sys2Proof.Machine
end

