-- ==== Sys2Proof/Machine/Frame.lean ====
section
/-! DEFINITION. What the four codecs share: a checksum chosen by the layout (R130), the cutting of a frame into header,
payload and trailer with its two checks (R142, R152, R162, R172), the sealing of a body with its trailer (R145, R155,
R165, R175), and the commands `DEC.P` and `ENC.P` over any codec. -/

namespace Sys2Proof.Machine

/-- `crc_P(s)` (R130), a CRC-16 zero-extended to 32 bits as the CRC registers hold it (R28). -/
def crcOf : CrcKind → List Byte → Word
  | .crc32, s => crc32Ieee s
  | .crc16, s => (crc16Ccitt s).setWidth 32

/-- `trailer_P(s)` (R130), most significant byte first. -/
def trailerOf : CrcKind → List Byte → List Byte
  | .crc32, s => be32 (crc32Ieee s)
  | .crc16, s => be16 (crc16Ccitt s)

/-- `rcvd_P(t)` (R130), zero-extended to 32 bits (R29). -/
def rcvdOf : CrcKind → List Byte → Word
  | .crc32, t => u32be t
  | .crc16, t => (u16be t).setWidth 32

/-- The source's NormalizedMessage: the header and the payload of a decoded frame (R18). -/
structure Message where
  header : List Byte
  payload : List Byte
  deriving DecidableEq, Repr

/-- `raw[0 .. n - crcWidth)`, the bytes the checksum covers. -/
def remainderOf (l : FrameLayout) (raw : List Byte) : List Byte := raw.take (raw.length - l.crcWidth)

/-- `raw[n - crcWidth .. n)`, the trailer. -/
def trailerBytes (l : FrameLayout) (raw : List Byte) : List Byte := raw.drop (raw.length - l.crcWidth)

/-- The steps every `decode_P` has in common, in their order: the length, then the checksum, then the cut after the
header (R142, R152, R162, R172). -/
def decodeFrame (l : FrameLayout) (raw : List Byte) : Except DecodeError Message :=
  if raw.length < l.minimumTotalLength then .error .tooShort
  else if crcOf l.crcAlgorithm (remainderOf l raw) ≠ rcvdOf l.crcAlgorithm (trailerBytes l raw) then
    .error .checksumMismatch
  else
    .ok { header := (remainderOf l raw).take l.headerLength
          payload := (remainderOf l raw).drop l.headerLength }

/-- The step every `encode_P` ends with: the checksum over header then payload is appended (R130). -/
def sealFrame (k : CrcKind) (header payload : List Byte) : List Byte :=
  header ++ payload ++ trailerOf k (header ++ payload)

/-- The registers and buffers a successful `DEC.P` writes (R144, R154, R164, R174). -/
def State.decoded (l : FrameLayout) (fields : List Byte → Extracted) (raw : List Byte) (m : Message)
    (s : State) : State :=
  { s.clearResults with
    hbuf := m.header
    obuf := m.payload
    x := fields m.header
    crcRcvd := rcvdOf l.crcAlgorithm (trailerBytes l raw)
    crcCalc := crcOf l.crcAlgorithm (remainderOf l raw) }

/-- `DEC.P` with command word `c` over a codec (R97 steps 4 to 6; R144, R154, R164, R174). -/
def decodeCommand (l : FrameLayout) (dec : List Byte → Except DecodeError Message)
    (fields : List Byte → Extracted) (c : Half) (s : State) : Host.Outcome State Fault Refusal :=
  match s.input with
  | none => .refused .unwrittenInput
  | some raw =>
    match dec raw with
    | .error e => .next (s.drawHidden.raise e.bare c)
    | .ok m => .next ((s.drawHidden.decoded l fields raw m).finish c)

/-- `ENC.P` with command word `c` over a codec (R97 steps 4 to 6; R146, R156, R166, R176): the frame to `OBUF`, the
checksum in its trailer to `CRC_CALC`. -/
def encodeCommand (l : FrameLayout) (enc : List Byte → Meta → List Byte) (um : Bool) (c : Half) (s : State) :
    Host.Outcome State Fault Refusal :=
  match s.input with
  | none => .refused .unwrittenInput
  | some payload =>
    .next ({ s.drawHidden.clearResults with
             obuf := enc payload (s.metaOf um)
             crcCalc := rcvdOf l.crcAlgorithm (trailerBytes l (enc payload (s.metaOf um))) }.finish c)

end Sys2Proof.Machine
end

