-- ==== Sys2Proof/Machine/Checksum.lean ====
section
/-! DEFINITION. The commands `CRC32` and `CRC16` (R123, R129). -/

namespace Sys2Proof.Machine

/-- A checksum command with command word `c` (R97 steps 4 to 6): only `CRC_CALC` and `STATUS` carry a result. -/
def checksumCommand (k : CrcKind) (c : Half) (s : State) : Host.Outcome State Fault Refusal :=
  match s.input with
  | none => .refused .unwrittenInput
  | some raw => .next ({ s.drawHidden.clearResults with crcCalc := crcOf k raw }.finish c)

/-- `CRC32` (R123). -/
def execCrc32 (s : State) : Host.Outcome State Fault Refusal := checksumCommand .crc32 (encode .crc32) s

/-- `CRC16` (R129): bits 31:16 of `CRC_CALC` are 0. -/
def execCrc16 (s : State) : Host.Outcome State Fault Refusal := checksumCommand .crc16 (encode .crc16) s

end Sys2Proof.Machine
end

