-- ==== Sys2Proof/Machine/Aos.lean ====
section
/-! DEFINITION. The AOS codec and its commands (spec/41_aos.md). -/

namespace Sys2Proof.Machine

/-- `strip_magic(rest)` (R143): the prefix `00 7B 7C` is dropped once, and only when three bytes are there. -/
def stripMagic (rest : List Byte) : List Byte :=
  if 3 ≤ rest.length ∧ rest.take 3 = magicPrefix then rest.drop 3 else rest

/-- `fields_AOS(header)` (R141). -/
def fieldsAos (header : List Byte) : Extracted :=
  { Extracted.zero with
    scid := u16be (header.take 2)
    vcid := byteAt header 2 }

/-- `decode_AOS(raw)` (R142): the magic prefix is looked for after the checksum has been verified. -/
def decodeAos (raw : List Byte) : Except DecodeError Message :=
  match decodeFrame layoutAos raw with
  | .error e => .error e
  | .ok m => .ok { header := m.header, payload := stripMagic m.payload }

/-- `encode_AOS(payload, meta)` (R145). -/
def encodeAos (payload : List Byte) (p : Meta) : List Byte :=
  sealFrame .crc32 (be16 p.scid ++ [p.vcid]) payload

/-- `DEC.AOS` (R144). -/
def execDecAos (s : State) : Host.Outcome State Fault Refusal :=
  decodeCommand layoutAos decodeAos fieldsAos (encode .decAos) s

/-- `ENC.AOS` and `ENC.AOS,M` (R146). -/
def execEncAos (um : Bool) (s : State) : Host.Outcome State Fault Refusal :=
  encodeCommand layoutAos encodeAos um (encode (.encAos um)) s

end Sys2Proof.Machine
end

