-- ==== Sys2Proof/Machine/Ccsds.lean ====
section
/-! DEFINITION. The CCSDS codec and its commands (spec/44_ccsds.md). -/

namespace Sys2Proof.Machine

/-- `fields_CCSDS(header)` (R171); `sequenceCount` is not among the decoded fields. -/
def fieldsCcsds (header : List Byte) : Extracted :=
  { Extracted.zero with
    ptype := byteAt header 1
    apid := byteAt header 6
    plen := u16be ((header.drop 7).take 2) }

/-- `decode_CCSDS(raw)` (R172): `packetLength` is not validated (R173). -/
def decodeCcsds (raw : List Byte) : Except DecodeError Message := decodeFrame layoutCcsds raw

/-- The `packetLength` an encoder writes: `trunc_16(len(payload) + 6)` (R175), the asymmetry of R177 preserved. -/
def packetLength (payload : List Byte) : Half := BitVec.ofNat 16 (payload.length + 6)

/-- The 9-byte header of `encode_CCSDS` (R175): the 6-byte primary block, `apid`, `packetLength`. -/
def headerCcsds (payload : List Byte) (p : Meta) : List Byte :=
  [0x00] ++ [p.ptype] ++ [0x00, 0x00] ++ be16 p.seq ++ [p.apid] ++ be16 (packetLength payload)

/-- `encode_CCSDS(payload, meta)` (R175). -/
def encodeCcsds (payload : List Byte) (p : Meta) : List Byte :=
  sealFrame .crc32 (headerCcsds payload p) payload

/-- `DEC.CCSDS` (R174). -/
def execDecCcsds (s : State) : Host.Outcome State Fault Refusal :=
  decodeCommand layoutCcsds decodeCcsds fieldsCcsds (encode .decCcsds) s

/-- `ENC.CCSDS` and `ENC.CCSDS,M` (R176). -/
def execEncCcsds (um : Bool) (s : State) : Host.Outcome State Fault Refusal :=
  encodeCommand layoutCcsds encodeCcsds um (encode (.encCcsds um)) s

end Sys2Proof.Machine
end

