-- ==== Sys2Proof/Machine/PusTc.lean ====
section
/-! DEFINITION. The PUS_TC codec and its commands (spec/43_pus_tc.md). -/

namespace Sys2Proof.Machine

/-- `fields_PUS_TC(header)` (R161); PUS_TC has no timestamp marker (R160). -/
def fieldsPusTc (header : List Byte) : Extracted :=
  { Extracted.zero with
    svc := byteAt header 0
    subsvc := byteAt header 1 }

/-- `decode_PUS_TC(raw)` (R162); no header byte is checked (R163). -/
def decodePusTc (raw : List Byte) : Except DecodeError Message := decodeFrame layoutPusTc raw

/-- `encode_PUS_TC(payload, meta)` (R165). -/
def encodePusTc (payload : List Byte) (p : Meta) : List Byte :=
  sealFrame .crc16 ([p.svc] ++ [p.subsvc] ++ zeros 8) payload

/-- `DEC.PUS_TC` (R164). -/
def execDecPusTc (s : State) : Host.Outcome State Fault Refusal :=
  decodeCommand layoutPusTc decodePusTc fieldsPusTc (encode .decPusTc) s

/-- `ENC.PUS_TC` and `ENC.PUS_TC,M` (R166). -/
def execEncPusTc (um : Bool) (s : State) : Host.Outcome State Fault Refusal :=
  encodeCommand layoutPusTc encodePusTc um (encode (.encPusTc um)) s

end Sys2Proof.Machine
end

