-- ==== Sys2Proof/Machine/PusTm.lean ====
section
/-! DEFINITION. The PUS_TM codec and its commands (spec/42_pus_tm.md). -/

namespace Sys2Proof.Machine

/-- `fields_PUS_TM(header)` (R151). -/
def fieldsPusTm (header : List Byte) : Extracted :=
  { Extracted.zero with
    svc := byteAt header 6
    subsvc := byteAt header 7
    tsmark := byteAt header 2 }

/-- `decode_PUS_TM(raw)` (R152); no header byte is checked (R153). -/
def decodePusTm (raw : List Byte) : Except DecodeError Message := decodeFrame layoutPusTm raw

/-- `encode_PUS_TM(payload, meta)` (R155): every header byte but offsets 6 and 7 is `00`, the timestamp marker too. -/
def encodePusTm (payload : List Byte) (p : Meta) : List Byte :=
  sealFrame .crc16 (zeros 6 ++ [p.svc] ++ [p.subsvc] ++ zeros 4) payload

/-- `DEC.PUS_TM` (R154). -/
def execDecPusTm (s : State) : Host.Outcome State Fault Refusal :=
  decodeCommand layoutPusTm decodePusTm fieldsPusTm (encode .decPusTm) s

/-- `ENC.PUS_TM` and `ENC.PUS_TM,M` (R156). -/
def execEncPusTm (um : Bool) (s : State) : Host.Outcome State Fault Refusal :=
  encodeCommand layoutPusTm encodePusTm um (encode (.encPusTm um)) s

end Sys2Proof.Machine
end

