-- ==== Sys2Proof/Machine/Convert.lean ====
section
/-! DEFINITION. The protocol multiplexer and the sixteen `CONV.S.T` commands (spec/45_convert.md). -/

namespace Sys2Proof.Machine

/-- `decode(P, raw)`, the 4-way decoder multiplexer (R180). -/
def decodeBy : Protocol → List Byte → Except DecodeError Message
  | .aos => decodeAos
  | .ccsds => decodeCcsds
  | .pusTm => decodePusTm
  | .pusTc => decodePusTc

/-- `encode(P, payload, meta)`, the 4-way encoder multiplexer (R180). -/
def encodeBy : Protocol → List Byte → Meta → List Byte
  | .aos => encodeAos
  | .ccsds => encodeCcsds
  | .pusTm => encodePusTm
  | .pusTc => encodePusTc

/-- `fields_P(header)` by protocol (R15). -/
def fieldsBy : Protocol → List Byte → Extracted
  | .aos => fieldsAos
  | .ccsds => fieldsCcsds
  | .pusTm => fieldsPusTm
  | .pusTc => fieldsPusTc

/-- `convert(S, T, raw, meta)` (R181): equal protocols pass the bytes through with no decode and no check (R182);
otherwise the payload alone survives, and a decode failure is wrapped (R183, R217). -/
def convert (src tgt : Protocol) (raw : List Byte) (p : Meta) : Except CmdError (List Byte) :=
  if src = tgt then .ok raw
  else
    match decodeBy src raw with
    | .error k => .error (.conversionFailed k)
    | .ok m => .ok (encodeBy tgt m.payload p)

/-- A passthrough runs no checksum generator (R182); a cross conversion may run both. -/
def State.drawUnless (pass : Bool) (s : State) : State := if pass then s else s.drawHidden

/-- `CONV.S.T` with command word `c` (R97 steps 4 to 6, R184): on success only `OBUF` and `STATUS` carry a result. -/
def convertCommand (src tgt : Protocol) (um : Bool) (c : Half) (s : State) : Host.Outcome State Fault Refusal :=
  match s.input with
  | none => .refused .unwrittenInput
  | some raw =>
    match convert src tgt raw (s.metaOf um) with
    | .error e => .next ((s.drawUnless (src == tgt)).raise e c)
    | .ok out => .next ({ (s.drawUnless (src == tgt)).clearResults with obuf := out }.finish c)

/-- `CONV.AOS.AOS` (R184): passthrough. -/
def execConvAosAos (um : Bool) (s : State) : Host.Outcome State Fault Refusal :=
  convertCommand .aos .aos um (encode (.convAosAos um)) s

/-- `CONV.AOS.CCSDS` (R185): decode, then encode. -/
def execConvAosCcsds (um : Bool) (s : State) : Host.Outcome State Fault Refusal :=
  convertCommand .aos .ccsds um (encode (.convAosCcsds um)) s

/-- `CONV.AOS.PUS_TM` (R186): decode, then encode. -/
def execConvAosPusTm (um : Bool) (s : State) : Host.Outcome State Fault Refusal :=
  convertCommand .aos .pusTm um (encode (.convAosPusTm um)) s

/-- `CONV.AOS.PUS_TC` (R187): decode, then encode. -/
def execConvAosPusTc (um : Bool) (s : State) : Host.Outcome State Fault Refusal :=
  convertCommand .aos .pusTc um (encode (.convAosPusTc um)) s

/-- `CONV.CCSDS.AOS` (R188): decode, then encode. -/
def execConvCcsdsAos (um : Bool) (s : State) : Host.Outcome State Fault Refusal :=
  convertCommand .ccsds .aos um (encode (.convCcsdsAos um)) s

/-- `CONV.CCSDS.CCSDS` (R189): passthrough. -/
def execConvCcsdsCcsds (um : Bool) (s : State) : Host.Outcome State Fault Refusal :=
  convertCommand .ccsds .ccsds um (encode (.convCcsdsCcsds um)) s

/-- `CONV.CCSDS.PUS_TM` (R190): decode, then encode. -/
def execConvCcsdsPusTm (um : Bool) (s : State) : Host.Outcome State Fault Refusal :=
  convertCommand .ccsds .pusTm um (encode (.convCcsdsPusTm um)) s

/-- `CONV.CCSDS.PUS_TC` (R191): decode, then encode. -/
def execConvCcsdsPusTc (um : Bool) (s : State) : Host.Outcome State Fault Refusal :=
  convertCommand .ccsds .pusTc um (encode (.convCcsdsPusTc um)) s

/-- `CONV.PUS_TM.AOS` (R192): decode, then encode. -/
def execConvPusTmAos (um : Bool) (s : State) : Host.Outcome State Fault Refusal :=
  convertCommand .pusTm .aos um (encode (.convPusTmAos um)) s

/-- `CONV.PUS_TM.CCSDS` (R193): decode, then encode. -/
def execConvPusTmCcsds (um : Bool) (s : State) : Host.Outcome State Fault Refusal :=
  convertCommand .pusTm .ccsds um (encode (.convPusTmCcsds um)) s

/-- `CONV.PUS_TM.PUS_TM` (R194): passthrough. -/
def execConvPusTmPusTm (um : Bool) (s : State) : Host.Outcome State Fault Refusal :=
  convertCommand .pusTm .pusTm um (encode (.convPusTmPusTm um)) s

/-- `CONV.PUS_TM.PUS_TC` (R195): decode, then encode. -/
def execConvPusTmPusTc (um : Bool) (s : State) : Host.Outcome State Fault Refusal :=
  convertCommand .pusTm .pusTc um (encode (.convPusTmPusTc um)) s

/-- `CONV.PUS_TC.AOS` (R196): decode, then encode. -/
def execConvPusTcAos (um : Bool) (s : State) : Host.Outcome State Fault Refusal :=
  convertCommand .pusTc .aos um (encode (.convPusTcAos um)) s

/-- `CONV.PUS_TC.CCSDS` (R197): decode, then encode. -/
def execConvPusTcCcsds (um : Bool) (s : State) : Host.Outcome State Fault Refusal :=
  convertCommand .pusTc .ccsds um (encode (.convPusTcCcsds um)) s

/-- `CONV.PUS_TC.PUS_TM` (R198): decode, then encode. -/
def execConvPusTcPusTm (um : Bool) (s : State) : Host.Outcome State Fault Refusal :=
  convertCommand .pusTc .pusTm um (encode (.convPusTcPusTm um)) s

/-- `CONV.PUS_TC.PUS_TC` (R199): passthrough. -/
def execConvPusTcPusTc (um : Bool) (s : State) : Host.Outcome State Fault Refusal :=
  convertCommand .pusTc .pusTc um (encode (.convPusTcPusTc um)) s

end Sys2Proof.Machine
end

