-- ==== Sys2Proof/Machine/Dispatch.lean ====
section
/-! DEFINITION. One arm per command (R98): each calls the meaning of its own. -/

namespace Sys2Proof.Machine

def exec (i : Instr) (s : State) : Host.Outcome State Fault Refusal :=
  match i with
  | .crc32 => Sys2Proof.Machine.execCrc32 s
  | .crc16 => Sys2Proof.Machine.execCrc16 s
  | .decAos => Sys2Proof.Machine.execDecAos s
  | .decCcsds => Sys2Proof.Machine.execDecCcsds s
  | .decPusTm => Sys2Proof.Machine.execDecPusTm s
  | .decPusTc => Sys2Proof.Machine.execDecPusTc s
  | .encAos um => Sys2Proof.Machine.execEncAos um s
  | .encCcsds um => Sys2Proof.Machine.execEncCcsds um s
  | .encPusTm um => Sys2Proof.Machine.execEncPusTm um s
  | .encPusTc um => Sys2Proof.Machine.execEncPusTc um s
  | .convAosAos um => Sys2Proof.Machine.execConvAosAos um s
  | .convAosCcsds um => Sys2Proof.Machine.execConvAosCcsds um s
  | .convAosPusTm um => Sys2Proof.Machine.execConvAosPusTm um s
  | .convAosPusTc um => Sys2Proof.Machine.execConvAosPusTc um s
  | .convCcsdsAos um => Sys2Proof.Machine.execConvCcsdsAos um s
  | .convCcsdsCcsds um => Sys2Proof.Machine.execConvCcsdsCcsds um s
  | .convCcsdsPusTm um => Sys2Proof.Machine.execConvCcsdsPusTm um s
  | .convCcsdsPusTc um => Sys2Proof.Machine.execConvCcsdsPusTc um s
  | .convPusTmAos um => Sys2Proof.Machine.execConvPusTmAos um s
  | .convPusTmCcsds um => Sys2Proof.Machine.execConvPusTmCcsds um s
  | .convPusTmPusTm um => Sys2Proof.Machine.execConvPusTmPusTm um s
  | .convPusTmPusTc um => Sys2Proof.Machine.execConvPusTmPusTc um s
  | .convPusTcAos um => Sys2Proof.Machine.execConvPusTcAos um s
  | .convPusTcCcsds um => Sys2Proof.Machine.execConvPusTcCcsds um s
  | .convPusTcPusTm um => Sys2Proof.Machine.execConvPusTcPusTm um s
  | .convPusTcPusTc um => Sys2Proof.Machine.execConvPusTcPusTc um s

end Sys2Proof.Machine
end

