-- ==== Sys2Proof/Machine/HostAccess.lean ====
section
/-! DEFINITION. The host accesses (spec/20_memory.md): the `REG` map, what a read returns, what a write does, and the
execution of a command inside the write of `CMD` (R97). -/

namespace Sys2Proof.Machine

/-- The `REG` offset of a register (R61). -/
def regOffset : Reg → Nat
  | .cmd => 0x00
  | .status => 0x04
  | .ilen => 0x08
  | .olen => 0x0C
  | .hlen => 0x10
  | .crcCalc => 0x14
  | .crcRcvd => 0x18
  | .mScid => 0x20
  | .mVcid => 0x24
  | .mSvc => 0x28
  | .mSubsvc => 0x2C
  | .mPtype => 0x30
  | .mApid => 0x34
  | .mSeq => 0x38
  | .xScid => 0x40
  | .xVcid => 0x44
  | .xSvc => 0x48
  | .xSubsvc => 0x4C
  | .xTsmark => 0x50
  | .xPtype => 0x54
  | .xApid => 0x58
  | .xPlen => 0x5C

/-- The register at a `REG` offset, or why there is none (R61, R66 (b), R72). -/
def regAt (offset : Nat) : Except Refusal Reg :=
  if offset % 4 ≠ 0 then .error .unalignedOffset
  else
    match offset with
    | 0x00 => .ok .cmd
    | 0x04 => .ok .status
    | 0x08 => .ok .ilen
    | 0x0C => .ok .olen
    | 0x10 => .ok .hlen
    | 0x14 => .ok .crcCalc
    | 0x18 => .ok .crcRcvd
    | 0x20 => .ok .mScid
    | 0x24 => .ok .mVcid
    | 0x28 => .ok .mSvc
    | 0x2C => .ok .mSubsvc
    | 0x30 => .ok .mPtype
    | 0x34 => .ok .mApid
    | 0x38 => .ok .mSeq
    | 0x40 => .ok .xScid
    | 0x44 => .ok .xVcid
    | 0x48 => .ok .xSvc
    | 0x4C => .ok .xSubsvc
    | 0x50 => .ok .xTsmark
    | 0x54 => .ok .xPtype
    | 0x58 => .ok .xApid
    | 0x5C => .ok .xPlen
    | _ => .error .reservedOffset

/-- A length as a 32-bit register word (R10, R26, R27). A length of 2^32 or more fits no register word and the spec
states no value for it: a FREE VALUE (assumption 5). -/
def lengthWord (n : Nat) : Word := if n < 2 ^ 32 then BitVec.ofNat 32 n else Config.wideLength n

/-- What a read of a register returns, zero-extended to 32 bits (R23 to R31, R64). -/
def readReg (r : Reg) (s : State) : Word :=
  match r with
  | .cmd => s.cmd.setWidth 32
  | .status => s.status.setWidth 32
  | .ilen => lengthWord s.ilen
  | .olen => lengthWord s.obuf.length
  | .hlen => lengthWord s.hbuf.length
  | .crcCalc => s.crcCalc
  | .crcRcvd => s.crcRcvd
  | .mScid => s.m.scid.setWidth 32
  | .mVcid => s.m.vcid.setWidth 32
  | .mSvc => s.m.svc.setWidth 32
  | .mSubsvc => s.m.subsvc.setWidth 32
  | .mPtype => s.m.ptype.setWidth 32
  | .mApid => s.m.apid.setWidth 32
  | .mSeq => s.m.seq.setWidth 32
  | .xScid => s.x.scid.setWidth 32
  | .xVcid => s.x.vcid.setWidth 32
  | .xSvc => s.x.svc.setWidth 32
  | .xSubsvc => s.x.subsvc.setWidth 32
  | .xTsmark => s.x.tsmark.setWidth 32
  | .xPtype => s.x.ptype.setWidth 32
  | .xApid => s.x.apid.setWidth 32
  | .xPlen => s.x.plen.setWidth 32

/-- A write of the 32-bit word `w` to `CMD` executes a command (R97): the two rejections take no input and so are
never refused (R97, last sentence). -/
def writeCmd (w : Word) (s : State) : Host.Outcome State Fault Refusal :=
  match decode w with
  | .error .illegalCommand => .next (s.raise .illegalCommand (commandOf w))
  | .error .formatUnknown => .next (s.raise .formatUnknown (commandOf w))
  | .ok i => exec i s

/-- A write of `ILEN` (R25, R66 (a)). -/
def writeIlen (v : Word) (s : State) : Host.Outcome State Fault Refusal :=
  if v.toNat ≤ s.cap then .next { s with ilen := v.toNat } else .refused .ilenBeyondCapacity

/-- What a write of a register does (R64): an `M_*` register of width `N` stores `trunc_N(v)` (R30), and a write to a
read-only register has no effect on any state. -/
def writeReg (r : Reg) (v : Word) (s : State) : Host.Outcome State Fault Refusal :=
  match r with
  | .cmd => writeCmd v s
  | .ilen => writeIlen v s
  | .mScid => .next { s with m := { s.m with scid := v.setWidth 16 } }
  | .mVcid => .next { s with m := { s.m with vcid := v.setWidth 8 } }
  | .mSvc => .next { s with m := { s.m with svc := v.setWidth 8 } }
  | .mSubsvc => .next { s with m := { s.m with subsvc := v.setWidth 8 } }
  | .mPtype => .next { s with m := { s.m with ptype := v.setWidth 8 } }
  | .mApid => .next { s with m := { s.m with apid := v.setWidth 8 } }
  | .mSeq => .next { s with m := { s.m with seq := v.setWidth 16 } }
  | .status => .next s
  | .olen => .next s
  | .hlen => .next s
  | .crcCalc => .next s
  | .crcRcvd => .next s
  | .xScid => .next s
  | .xVcid => .next s
  | .xSvc => .next s
  | .xSubsvc => .next s
  | .xTsmark => .next s
  | .xPtype => .next s
  | .xApid => .next s
  | .xPlen => .next s

/-- The byte at an index of a result buffer (R63). -/
def bufferByte (buf : List Byte) (i : Nat) (beyond : Refusal) : Except Refusal Word :=
  match buf[i]? with
  | none => .error beyond
  | some b => .ok (b.setWidth 32)

/-- `MemRead(IBUF, i, 1)` (R62, R66 (c), (d)). -/
def readIbuf (i : Nat) (s : State) : Except Refusal Word :=
  if i < s.cap then
    match s.ibuf.read i with
    | none => .error .unwrittenCell
    | some b => .ok (b.setWidth 32)
  else .error .ibufOutOfRange

/-- `MemRead(space, addr, n)` (R60, R62 to R64, R66). -/
def memRead (sp : Space) (addr n : Nat) (s : State) : Except Refusal Word :=
  match sp with
  | .reg =>
    if n = 4 then
      match regAt addr with
      | .error e => .error e
      | .ok r => .ok (readReg r s)
    else .error .wrongSize
  | .ibuf => if n = 1 then readIbuf addr s else .error .wrongSize
  | .obuf => if n = 1 then bufferByte s.obuf addr .obufOutOfRange else .error .wrongSize
  | .hbuf => if n = 1 then bufferByte s.hbuf addr .hbufOutOfRange else .error .wrongSize

/-- `MemWrite(IBUF, i, 1, b)` (R62, R66 (c)). -/
def writeIbuf (i : Nat) (b : Byte) (s : State) : Host.Outcome State Fault Refusal :=
  if i < s.cap then .next { s with ibuf := s.ibuf.write i b } else .refused .ibufOutOfRange

/-- `MemWrite(space, addr, n, v)` (R60, R62, R64, R66). -/
def memWrite (sp : Space) (addr n : Nat) (v : Word) (s : State) : Host.Outcome State Fault Refusal :=
  match sp with
  | .reg =>
    if n = 4 then
      match regAt addr with
      | .error e => .refused e
      | .ok r => writeReg r v s
    else .refused .wrongSize
  | .ibuf => if n = 1 then writeIbuf addr (v.setWidth 8) s else .refused .wrongSize
  | .obuf => .refused .resultBufferWrite
  | .hbuf => .refused .resultBufferWrite

/-- One host access. A read changes no state of the block (R65); the value it returns joins the host's replies. -/
def hostAccess (a : Access) (s : State) : Host.Outcome State Fault Refusal :=
  match a with
  | .read sp addr n =>
    match memRead sp addr n s with
    | .error e => .refused e
    | .ok v => .next { s with replies := s.replies ++ [v] }
  | .write sp addr n v => memWrite sp addr n v s

/-- The reset input (R240): every piece of the block's state at its value of R48, the hidden registers unspecified
(FREE VALUES). What belongs to the host, and the capacity, stay. -/
def State.applyReset (s : State) : State :=
  { State.reset with cap := s.cap, hidden := s.hidden.draw, port := s.port, replies := s.replies }

/-- What the next event at the port does (R16, R240). -/
def portEvent (e : PortEvent) (s : State) : Host.Outcome State Fault Refusal :=
  match e with
  | .access a => hostAccess a s
  | .reset => .next s.applyReset

end Sys2Proof.Machine
end

