-- ==== Sys2Proof/Machine/Step.lean ====
section
/-! DEFINITION. One step: the next event at the host port, or nothing. The block fetches no instruction (R22, R78): the
place where the next command comes from is the port. -/

namespace Sys2Proof.Machine

/-- The machine has one kind of step, the host access, with the reset input between accesses (R16, R240). With nothing
at the port the block is idle and no state changes (R16, R22, R227). -/
def step (s : State) : Host.Outcome State Fault Refusal :=
  match s.port with
  | [] => .next s
  | e :: rest => portEvent e { s with port := rest }

/-- The next event at the port is the write of the table word to `CMD`, every bit above the row's `nbits` being 0;
what else waits at the port comes after it (assumption 2). -/
def State.withFetchWord (s : State) (nbits w : Nat) : State :=
  { s with
    port := .access (.write .reg (regOffset .cmd) 4 (BitVec.ofNat 32 (w % 2 ^ nbits))) :: s.port }

end Sys2Proof.Machine
end

