-- ==== Sys2Proof/Machine/Assembler.lean ====
section
/-! DEFINITION. The assembler's and driver's side of the block (R9, R110 to R113): tag strings, the operand form of the
commands, the host-access lines and the pseudo-instructions. Nothing here is state or runs in the block: each
definition only says which host accesses a line stands for. Strings are byte sequences, since R113 compares them byte
for byte (assumption 10). -/

namespace Sys2Proof.Machine

/-- The exact lowercase string of a protocol in ASCII (R92, R113). -/
def tagString : Protocol → List Byte
  | .aos => [0x61, 0x6F, 0x73]
  | .ccsds => [0x63, 0x63, 0x73, 0x64, 0x73]
  | .pusTm => [0x70, 0x75, 0x73, 0x5F, 0x74, 0x6D]
  | .pusTc => [0x70, 0x75, 0x73, 0x5F, 0x74, 0x63]

/-- `parse_tag(string)` (R113); `none` is its failure `FormatUnknown`. -/
def parseTag (s : List Byte) : Option Protocol :=
  if s = tagString .aos then some .aos
  else if s = tagString .ccsds then some .ccsds
  else if s = tagString .pusTm then some .pusTm
  else if s = tagString .pusTc then some .pusTc
  else none

/-- The tag an assembler emits for a string: 15 for an unknown one (R113). -/
def assembleTag (s : List Byte) : BitVec 4 :=
  match parseTag s with
  | some p => tagOf p
  | none => 15

/-- The operand form of a command (R110); `m` is the suffix `, M`. -/
inductive CommandLine where
  | crc32
  | crc16
  | dec (p : List Byte)
  | enc (p : List Byte) (m : Bool)
  | conv (s t : List Byte) (m : Bool)
  deriving DecidableEq, Repr

/-- The word a command line assembles to: `OP << 12 | UM << 8 | SRC << 4 | TGT` (R110). -/
def assembleCommand : CommandLine → Half
  | .crc32 => commandWord 1 false 0 0
  | .crc16 => commandWord 2 false 0 0
  | .dec p => commandWord 3 false (assembleTag p) 0
  | .enc p m => commandWord 4 m 0 (assembleTag p)
  | .conv s t m => commandWord 5 m (assembleTag s) (assembleTag t)

/-- `WR <reg>, <v>` (R111). -/
def lineWr (r : Reg) (v : Word) : Access := .write .reg (regOffset r) 4 v

/-- `RD <reg>` (R111). -/
def lineRd (r : Reg) : Access := .read .reg (regOffset r) 4

/-- `WB <i>, <b>` (R111). -/
def lineWb (i : Nat) (b : Byte) : Access := .write .ibuf i 1 (b.setWidth 32)

/-- `RB <buffer>, <i>` (R111). -/
def lineRb (sp : Space) (i : Nat) : Access := .read sp i 1

/-- A command mnemonic stands for the write of its word to `CMD` (R110, R111). -/
def lineCommand (l : CommandLine) : Access := lineWr .cmd ((assembleCommand l).setWidth 32)

/-- The `WB` lines that store `bs` from cell `i` on. -/
def storeLines : Nat → List Byte → List Access
  | _, [] => []
  | i, b :: bs => lineWb i b :: storeLines (i + 1) bs

/-- `LOAD b0 b1 ...` (R112), for a sequence that fits (`n <= CAP`). DESIGN CHOICE: where `n` does not fit the 32 bits of
`WR ILEN, n`, which R112 leaves open, the data written is the FREE VALUE of `lengthWord` (assumption 15). -/
def pseudoLoad (bs : List Byte) : List Access :=
  storeLines 0 bs ++ [lineWr .ilen (lengthWord bs.length)]

/-- The seven names a `META` line can set (R112); no other name exists, so the line writes `M_*` registers only. -/
inductive MetaName where
  | scid
  | vcid
  | svc
  | subsvc
  | ptype
  | apid
  | seq
  deriving DecidableEq, Repr

/-- `M_<NAME>`, the register a name stands for (R112, R30). -/
def metaReg : MetaName → Reg
  | .scid => .mScid
  | .vcid => .mVcid
  | .svc => .mSvc
  | .subsvc => .mSubsvc
  | .ptype => .mPtype
  | .apid => .mApid
  | .seq => .mSeq

/-- The spelling of a name in ASCII (R112). -/
def metaString : MetaName → List Byte
  | .scid => [0x73, 0x63, 0x69, 0x64]
  | .vcid => [0x76, 0x63, 0x69, 0x64]
  | .svc => [0x73, 0x76, 0x63]
  | .subsvc => [0x73, 0x75, 0x62, 0x73, 0x76, 0x63]
  | .ptype => [0x70, 0x74, 0x79, 0x70, 0x65]
  | .apid => [0x61, 0x70, 0x69, 0x64]
  | .seq => [0x73, 0x65, 0x71]

/-- `META name=v, ...` (R112): one `WR M_<NAME>, v` per pair, in the order written. -/
def pseudoMeta (pairs : List (MetaName × Word)) : List Access := pairs.map fun p => lineWr (metaReg p.1) p.2

/-- `CLRMETA` (R112). -/
def pseudoClrmeta : List Access :=
  pseudoMeta [(.scid, 0), (.vcid, 0), (.svc, 0), (.subsvc, 0), (.ptype, 0), (.apid, 0), (.seq, 0)]

/-- The `RB OBUF, i` then `WB i, <the byte read>` pairs of `MOVE`, from cell `i` on. -/
def moveLines : Nat → List Byte → List Access
  | _, [] => []
  | i, b :: bs => lineRb .obuf i :: lineWb i b :: moveLines (i + 1) bs

/-- `MOVE` (R112), where `obuf` is what its own reads of `OBUF` return, for an output that fits (`n <= CAP`); `WR ILEN`
writes the very word that `RD OLEN` returned. DESIGN CHOICE: where `OLEN` does not fit 32 bits, so that the value read is
not the length, every byte is still copied and that word is the FREE VALUE of `lengthWord` (assumption 15). -/
def pseudoMove (obuf : List Byte) : List Access :=
  lineRd .olen :: moveLines 0 obuf ++ [lineWr .ilen (lengthWord obuf.length)]

/-- `READOUT` (R112), where `olen` is what its own read of `OLEN` returns, its loop bound too when `OLEN` does not fit
32 bits (assumption 15). -/
def pseudoReadout (olen : Nat) : List Access :=
  lineRd .status :: lineRd .olen :: (List.range olen).map (lineRb .obuf)

/-- The host accesses as events at the port, in program order (R75). -/
def asEvents (lines : List Access) : List PortEvent := lines.map .access

end Sys2Proof.Machine
end

