-- ==== Sys2Proof/Safety.lean ====
section
/-! DEFINITION. What the claims speak of: the invariant of the block, its result state, the accesses R66 lists, and the
running of the port. -/

namespace Sys2Proof.Machine

/-- The values `STATUS` can take (R24). -/
def legalStatus (v : BitVec 9) : Prop :=
  v = 0x000 ∨ v = 0x100 ∨ v = 0x101 ∨ v = 0x102 ∨ v = 0x103 ∨ v = 0x105 ∨ v = 0x124 ∨ v = 0x134

/-- The results are cleared (R35, R97 step 1). -/
structure State.ResultsCleared (s : State) : Prop where
  obuf : s.obuf = []
  hbuf : s.hbuf = []
  x : s.x = Extracted.zero
  crcCalc : s.crcCalc = 0
  crcRcvd : s.crcRcvd = 0

/-- What every reachable state of the block satisfies. -/
structure State.Inv (s : State) : Prop where
  /-- R10: `CAP >= 14` -/
  capacity : 14 ≤ s.cap
  /-- the buffer's canonical form (R32) -/
  canonical : Memory.wf s.ibuf
  /-- R32: only cells 0 to `CAP - 1` exist -/
  cells : ∀ p ∈ s.ibuf, p.1 < s.cap
  /-- R25: `0 <= ILEN <= CAP` -/
  inputLength : s.ilen ≤ s.cap
  /-- R26: `OLEN <= OCAP = CAP + 14` -/
  outputLength : s.obuf.length ≤ s.cap + 14
  /-- R27: `HLEN` is 0 or a header length -/
  headerLength : s.hbuf.length ∈ [0, 3, 9, 10, 12]
  /-- R24: the values `STATUS` can take -/
  status : legalStatus s.status
  /-- R216, R48: no result survives an error, and there is none before the first command -/
  allOrNothing : s.status ≠ 0x100 → s.ResultsCleared
  /-- R35: the `X_*` registers and `CRC_RCVD` carry something only beside a decoded header -/
  headerless : s.hbuf = [] → s.x = Extracted.zero ∧ s.crcRcvd = 0
  /-- R28: beside a decoded header the recomputed and the received CRC are equal -/
  crcAgree : s.hbuf ≠ [] → s.crcCalc = s.crcRcvd

/-- The result state of R20, with `CMD`: everything the last command decides. -/
structure Results where
  cmd : Half
  status : BitVec 9
  obuf : List Byte
  hbuf : List Byte
  x : Extracted
  crcCalc : Word
  crcRcvd : Word
  deriving DecidableEq, Repr

/-- The result state of a state. -/
def State.results (s : State) : Results := ⟨s.cmd, s.status, s.obuf, s.hbuf, s.x, s.crcCalc, s.crcRcvd⟩

/-- The state with its result state replaced by `r` and the hidden registers by `h`; everything else as it was: the
capacity, the input state, the port and the replies. -/
def State.withResults (r : Results) (h : Hidden) (s : State) : State :=
  { s with
    cmd := r.cmd
    status := r.status
    obuf := r.obuf
    hbuf := r.hbuf
    x := r.x
    crcCalc := r.crcCalc
    crcRcvd := r.crcRcvd
    hidden := h }

/-- The results a command with word `c` leaves when it raises an error with status `v` (R216). -/
def Results.error (c : Half) (v : BitVec 9) : Results := ⟨c, v, [], [], Extracted.zero, 0, 0⟩

/-- The results of a command with word `c` whose only result is `OBUF` (R35, the `CONV` rows). -/
def Results.output (c : Half) (out : List Byte) : Results := ⟨c, 0x100, out, [], Extracted.zero, 0, 0⟩

/-- The target protocol whose encoder a command runs with the `M_*` registers: the one of `ENC.P,M` and of a
cross-protocol `CONV.S.P,M` (R95). -/
def metaReader : Instr → Option Protocol
  | .encAos true => some .aos
  | .encCcsds true => some .ccsds
  | .encPusTm true => some .pusTm
  | .encPusTc true => some .pusTc
  | .convCcsdsAos true => some .aos
  | .convPusTmAos true => some .aos
  | .convPusTcAos true => some .aos
  | .convAosCcsds true => some .ccsds
  | .convPusTmCcsds true => some .ccsds
  | .convPusTcCcsds true => some .ccsds
  | .convAosPusTm true => some .pusTm
  | .convCcsdsPusTm true => some .pusTm
  | .convPusTcPusTm true => some .pusTm
  | .convAosPusTc true => some .pusTc
  | .convCcsdsPusTc true => some .pusTc
  | .convPusTmPusTc true => some .pusTc
  | _ => none

/-- Two metadata records agree in the parameters the encoder of a protocol reads (R30, column "read by"). -/
def metaAgree : Option Protocol → Meta → Meta → Prop
  | none, _, _ => True
  | some .aos, a, b => a.scid = b.scid ∧ a.vcid = b.vcid
  | some .ccsds, a, b => a.ptype = b.ptype ∧ a.apid = b.apid ∧ a.seq = b.seq
  | some .pusTm, a, b => a.svc = b.svc ∧ a.subsvc = b.subsvc
  | some .pusTc, a, b => a.svc = b.svc ∧ a.subsvc = b.subsvc

/-- The accesses of R66, its nine letters in order: what a host must never do. -/
inductive Forbidden (s : State) : Access → Prop where
  | ilenBeyondCapacity {v : Word} : s.cap < v.toNat → Forbidden s (.write .reg 0x08 4 v)
  | readUnlisted {a n : Nat} : (a % 4 ≠ 0 ∨ a = 0x1C ∨ a = 0x3C ∨ 0x5C < a) → Forbidden s (.read .reg a n)
  | writeUnlisted {a n : Nat} {v : Word} :
      (a % 4 ≠ 0 ∨ a = 0x1C ∨ a = 0x3C ∨ 0x5C < a) → Forbidden s (.write .reg a n v)
  | ibufReadBeyond {i n : Nat} : s.cap ≤ i → Forbidden s (.read .ibuf i n)
  | ibufWriteBeyond {i n : Nat} {v : Word} : s.cap ≤ i → Forbidden s (.write .ibuf i n v)
  | unwrittenCell {i : Nat} : s.ibuf.read i = none → Forbidden s (.read .ibuf i 1)
  | obufBeyond {i n : Nat} : s.obuf.length ≤ i → Forbidden s (.read .obuf i n)
  | hbufBeyond {i n : Nat} : s.hbuf.length ≤ i → Forbidden s (.read .hbuf i n)
  | obufWrite {i n : Nat} {v : Word} : Forbidden s (.write .obuf i n v)
  | hbufWrite {i n : Nat} {v : Word} : Forbidden s (.write .hbuf i n v)
  | wrongSize {a : Access} : a.sizeOk = false → Forbidden s a
  | unwrittenInput {w : Word} {i : Instr} {k : Nat} :
      decode w = .ok i → k < s.ilen → s.ibuf.read k = none → Forbidden s (.write .reg 0x00 4 w)

/-- `legal(w)` spelled out from R94 on the bits of the written word, apart from the decoder's own reading of it. -/
def SpecLegal (w : Word) : Prop :=
  w.extractLsb' 16 16 = 0 ∧ w.extractLsb' 9 3 = 0 ∧
    ((w.extractLsb' 12 4 = 1 ∨ w.extractLsb' 12 4 = 2) ∧ w.extractLsb' 0 9 = 0 ∨
      w.extractLsb' 12 4 = 3 ∧ w.getLsbD 8 = false ∧ w.extractLsb' 0 4 = 0 ∨
      w.extractLsb' 12 4 = 4 ∧ w.extractLsb' 4 4 = 0 ∨
      w.extractLsb' 12 4 = 5)

/-- `unknown_tag(c)` of a legal word spelled out from R96 on its bits: a used tag field above 3. -/
def SpecUnknownTag (w : Word) : Prop :=
  w.extractLsb' 12 4 = 3 ∧ 3 < (w.extractLsb' 4 4).toNat ∨
    w.extractLsb' 12 4 = 4 ∧ 3 < (w.extractLsb' 0 4).toNat ∨
    w.extractLsb' 12 4 = 5 ∧ (3 < (w.extractLsb' 4 4).toNat ∨ 3 < (w.extractLsb' 0 4).toNat)

/-- A command word with its `UM` bit set or not (R90: bit 8). -/
def withUm (base : Half) (um : Bool) : Half := if um then base ||| 0x0100 else base

/-- The column `minimumTotalLength` of R46, written out. -/
def minimumLength : Protocol → Nat
  | .aos => 7
  | .ccsds => 13
  | .pusTm => 14
  | .pusTc => 12

/-- What the fields of a header hold after encoding with parameters `p` a payload of `n` bytes (R145, R155, R165, R175
read through R141, R151, R161, R171). -/
def encodedFields (p : Meta) (n : Nat) : Protocol → Extracted
  | .aos => { Extracted.zero with scid := p.scid, vcid := p.vcid }
  | .ccsds => { Extracted.zero with ptype := p.ptype, apid := p.apid, plen := BitVec.ofNat 16 (n + 6) }
  | .pusTm => { Extracted.zero with svc := p.svc, subsvc := p.subsvc }
  | .pusTc => { Extracted.zero with svc := p.svc, subsvc := p.subsvc }

/-- The header an encoder writes before a payload of `n` bytes, every byte of it: a function of the parameters and the
length alone (R145, R155, R165, R175). -/
def encodedHeader (p : Meta) (n : Nat) : Protocol → List Byte
  | .aos => [p.scid.extractLsb' 8 8, p.scid.extractLsb' 0 8, p.vcid]
  | .ccsds => [0x00, p.ptype, 0x00, 0x00, p.seq.extractLsb' 8 8, p.seq.extractLsb' 0 8, p.apid,
      BitVec.ofNat 8 ((n + 6) / 256), BitVec.ofNat 8 (n + 6)]
  | .pusTm => [0, 0, 0, 0, 0, 0, p.svc, p.subsvc, 0, 0, 0, 0]
  | .pusTc => [p.svc, p.subsvc, 0, 0, 0, 0, 0, 0, 0, 0]

/-- The metadata after `WR M_<NAME>, v`: the named register alone takes the low bits of `v` that fit it (R30, R112). -/
def metaAssign (p : Meta) : MetaName × Word → Meta
  | (.scid, v) => { p with scid := v.extractLsb' 0 16 }
  | (.vcid, v) => { p with vcid := v.extractLsb' 0 8 }
  | (.svc, v) => { p with svc := v.extractLsb' 0 8 }
  | (.subsvc, v) => { p with subsvc := v.extractLsb' 0 8 }
  | (.ptype, v) => { p with ptype := v.extractLsb' 0 8 }
  | (.apid, v) => { p with apid := v.extractLsb' 0 8 }
  | (.seq, v) => { p with seq := v.extractLsb' 0 16 }

/-- The port is worked off: the state after every waiting event, stopping at the first refusal. -/
def runPort (s : State) : Host.Outcome State Fault Refusal := Sys2Proof.core.run s.port.length s

/-- A byte sequence with bit `k` of its byte `i` flipped. -/
def flipBit (f : List Byte) (i k : Nat) : List Byte := f.modify i (fun b => b ^^^ BitVec.twoPow 8 k)

end Sys2Proof.Machine
end

