-- ==== Sys2Proof/Certificates/Slice0/Obligations.lean ====
section
/-! DEFINITION. The statements for the provers. Each docstring names the rules of spec/ it rests on. In all of them the
hidden working registers are left open (`∃ h`), since the spec states no value for them (U9, assumption 3). Where a
statement is about a host access, the fields `port` and `replies`, the model's own (assumption 2), only carry the
access in and the value a read returns out. -/

open Sys2Proof Sys2Proof.Machine

/-! ### Reset and the port -/

/-- R48: every register at the value the table of R48 gives, no result, every `IBUF` cell unwritten. The table's last
row (the hidden registers, unspecified) constrains nothing. -/
def Obligations.ResetLeavesNoInputAndNoResult : Prop :=
  State.reset.cmd = 0x0000 ∧ State.reset.status = 0x000 ∧ State.reset.ilen = 0 ∧
    State.reset.obuf = [] ∧ State.reset.hbuf = [] ∧ State.reset.crcCalc = 0 ∧ State.reset.crcRcvd = 0 ∧
    State.reset.m = ⟨0, 0, 0, 0, 0, 0, 0⟩ ∧ State.reset.x = ⟨0, 0, 0, 0, 0, 0, 0, 0⟩ ∧
    ∀ a, State.reset.ibuf.read a = none

/-- R240: the reset input puts the block at its reset state whatever it held. That the capacity, the waiting events and
the host's replies stay is the model's own (assumptions 1 and 2). -/
def Obligations.ResetInputRestoresTheResetState : Prop :=
  ∀ (s : State) (rest : List PortEvent), s.port = .reset :: rest →
    ∃ h, step s = .next { State.reset with cap := s.cap, hidden := h, port := rest, replies := s.replies }

/-- R16, R227: with nothing at the port nothing changes. The port is the model's own (assumption 2). -/
def Obligations.IdleStepChangesNothing : Prop := ∀ s : State, s.port = [] → step s = .next s

/-- R97: the write to `CMD` of a word that decodes to `i` is one step and that step is `exec i`, on the state from which
the access has been taken off the port. -/
def Obligations.StepRunsTheDecodedCommand : Prop :=
  ∀ (s : State) (w : Word) (i : Instr) (rest : List PortEvent),
    s.port = .access (.write .reg 0x00 4 w) :: rest → decode w = .ok i →
      step s = exec i { s with port := rest }

/-- Every step that goes on takes exactly one event off the port and never changes the capacity (R16, R75; the port is
the model's own, assumption 2). -/
def Obligations.StepTakesOneEvent : Prop :=
  ∀ (s t : State) (e : PortEvent) (rest : List PortEvent),
    s.port = e :: rest → step s = .next t → t.port = rest ∧ t.cap = s.cap

/-! ### The command word -/

/-- R215, with `legal` spelled out from R94: an illegal word stores its low 16 bits in `CMD`, sets `STATUS` to `0x105`,
clears the results, and does nothing else; it is never refused. -/
def Obligations.IllegalWordRaisesIllegalCommand : Prop :=
  ∀ (s : State) (w : Word) (rest : List PortEvent),
    s.port = .access (.write .reg 0x00 4 w) :: rest → ¬ SpecLegal w →
      step s = .next (State.withResults (Results.error (w.extractLsb' 0 16) 0x105) s.hidden { s with port := rest })

/-- R212, with `unknown_tag` spelled out from R96: a legal word with a used tag of 4 to 15 raises `FormatUnknown`, bare
and before any other test, and does nothing else; it is never refused, since the input is not read. -/
def Obligations.UnknownTagRaisesFormatUnknown : Prop :=
  ∀ (s : State) (w : Word) (rest : List PortEvent),
    s.port = .access (.write .reg 0x00 4 w) :: rest → SpecLegal w → SpecUnknownTag w →
      step s = .next (State.withResults (Results.error (w.extractLsb' 0 16) 0x101) s.hidden { s with port := rest })

/-- R98: a legal word with known tags decodes to a command whose row it selects, and selects no other row; every other
word is illegal or has an unknown tag, and decodes to nothing. -/
def Obligations.LegalWordSelectsExactlyOneRow : Prop :=
  ∀ w : Word,
    (SpecLegal w ∧ ¬ SpecUnknownTag w →
      ∃ i, decode w = .ok i ∧ ∀ j, w.extractLsb' 0 16 &&& opcodeMask j = opcodeMatch j ↔ opcodeMatch j = opcodeMatch i) ∧
    (¬ SpecLegal w → decode w = .error .illegalCommand) ∧
    (SpecLegal w → SpecUnknownTag w → decode w = .error .formatUnknown)

/-- Decoding the word of a command gives the command back, for all 26 and both values of `UM` (R98, R110). -/
def Obligations.DecodeOfEncode : Prop := ∀ i : Instr, decode ((encode i).setWidth 32) = .ok i

/-- A word that decodes to a command is that command's own word: no bit of a written word is dropped (R90, R98). -/
def Obligations.EncodeOfDecode : Prop := ∀ (w : Word) (i : Instr), decode w = .ok i → (encode i).setWidth 32 = w

/-- One word of each family and the two ends of the reserved space, written out from R98 and R99. -/
def Obligations.SampleWordsDecode : Prop :=
  decode 0x00001000 = .ok .crc32 ∧ decode 0x00002000 = .ok .crc16 ∧ decode 0x00003020 = .ok .decPusTm ∧
    decode 0x00004103 = .ok (.encPusTc true) ∧ decode 0x00005012 = .ok (.convCcsdsPusTm false) ∧
    decode 0x00005133 = .ok (.convPusTcPusTc true) ∧ decode 0x00000000 = .error .illegalCommand ∧
    decode 0x00011000 = .error .illegalCommand ∧ decode 0x00005099 = .error .formatUnknown

/-! ### Host accesses -/

/-- R61, R64: a read at each of the 22 listed offsets returns that register zero-extended, and changes nothing but the
replies. The three lengths are taken to fit a register word (assumption 5). -/
def Obligations.RegisterReadReturnsTheRegister : Prop :=
  ∀ (s : State) (off : Nat) (v : Word) (rest : List PortEvent),
    s.ilen < 2 ^ 32 → s.obuf.length < 2 ^ 32 → s.hbuf.length < 2 ^ 32 →
    (off, v) ∈ [(0x00, s.cmd.setWidth 32), (0x04, s.status.setWidth 32), (0x08, BitVec.ofNat 32 s.ilen),
      (0x0C, BitVec.ofNat 32 s.obuf.length), (0x10, BitVec.ofNat 32 s.hbuf.length), (0x14, s.crcCalc),
      (0x18, s.crcRcvd), (0x20, s.m.scid.setWidth 32), (0x24, s.m.vcid.setWidth 32), (0x28, s.m.svc.setWidth 32),
      (0x2C, s.m.subsvc.setWidth 32), (0x30, s.m.ptype.setWidth 32), (0x34, s.m.apid.setWidth 32),
      (0x38, s.m.seq.setWidth 32), (0x40, s.x.scid.setWidth 32), (0x44, s.x.vcid.setWidth 32),
      (0x48, s.x.svc.setWidth 32), (0x4C, s.x.subsvc.setWidth 32), (0x50, s.x.tsmark.setWidth 32),
      (0x54, s.x.ptype.setWidth 32), (0x58, s.x.apid.setWidth 32), (0x5C, s.x.plen.setWidth 32)] →
    s.port = .access (.read .reg off 4) :: rest →
      step s = .next { s with port := rest, replies := s.replies ++ [v] }

/-- R30, R64: a write to an `M_*` register stores the low bits that fit it and changes nothing else. -/
def Obligations.MetadataWriteTruncates : Prop :=
  ∀ (s : State) (off : Nat) (v : Word) (m' : Meta) (rest : List PortEvent),
    (off, m') ∈ [(0x20, { s.m with scid := v.extractLsb' 0 16 }), (0x24, { s.m with vcid := v.extractLsb' 0 8 }),
      (0x28, { s.m with svc := v.extractLsb' 0 8 }), (0x2C, { s.m with subsvc := v.extractLsb' 0 8 }),
      (0x30, { s.m with ptype := v.extractLsb' 0 8 }), (0x34, { s.m with apid := v.extractLsb' 0 8 }),
      (0x38, { s.m with seq := v.extractLsb' 0 16 })] →
    s.port = .access (.write .reg off 4 v) :: rest →
      step s = .next { s with port := rest, m := m' }

/-- R25: a write of `ILEN` with a value up to `CAP` sets it and changes nothing else; above `CAP` it is refused. -/
def Obligations.InputLengthWriteIsBounded : Prop :=
  ∀ (s : State) (v : Word) (rest : List PortEvent), s.port = .access (.write .reg 0x08 4 v) :: rest →
    (v.toNat ≤ s.cap → step s = .next { s with port := rest, ilen := v.toNat }) ∧
    (s.cap < v.toNat → step s = .refused .ilenBeyondCapacity)

/-- R64: a write to a read-only register has no effect on any state. -/
def Obligations.ReadOnlyRegisterIgnoresWrites : Prop :=
  ∀ (s : State) (off : Nat) (v : Word) (rest : List PortEvent),
    off ∈ [0x04, 0x0C, 0x10, 0x14, 0x18, 0x40, 0x44, 0x48, 0x4C, 0x50, 0x54, 0x58, 0x5C] →
    s.port = .access (.write .reg off 4 v) :: rest → step s = .next { s with port := rest }

/-- R62: a write of an `IBUF` cell makes that cell hold the byte and changes nothing else, no other cell, not `ILEN`, no
result; a read of a written cell returns its byte. -/
def Obligations.InputCellHoldsWhatWasWritten : Prop :=
  ∀ (s : State) (i : Nat) (rest : List PortEvent), i < s.cap →
    (∀ b : Byte, s.port = .access (.write .ibuf i 1 (b.setWidth 32)) :: rest →
      ∃ m, step s = .next { s with port := rest, ibuf := m } ∧ Memory.read m i = some b ∧
        ∀ k, k ≠ i → Memory.read m k = s.ibuf.read k) ∧
    (∀ b : Byte, s.port = .access (.read .ibuf i 1) :: rest → s.ibuf.read i = some b →
      step s = .next { s with port := rest, replies := s.replies ++ [b.setWidth 32] })

/-- R63: a read of a result buffer below its length returns the byte at that index and changes no state of the block. -/
def Obligations.ResultBufferReadReturnsItsByte : Prop :=
  ∀ (s : State) (i : Nat) (b : Byte) (rest : List PortEvent),
    (s.obuf[i]? = some b → s.port = .access (.read .obuf i 1) :: rest →
      step s = .next { s with port := rest, replies := s.replies ++ [b.setWidth 32] }) ∧
    (s.hbuf[i]? = some b → s.port = .access (.read .hbuf i 1) :: rest →
      step s = .next { s with port := rest, replies := s.replies ++ [b.setWidth 32] })

/-- R66, "the complete list": a host access is refused exactly when it is one of the nine the list names. -/
def Obligations.AccessRefusedExactlyWhenForbidden : Prop :=
  ∀ (s : State) (a : Access) (rest : List PortEvent), s.port = .access a :: rest →
    ((∃ r, step s = .refused r) ↔ Forbidden s a)

/-- R20, R65: no host access but a write of `CMD` changes any result, and no read changes any state of the block. -/
def Obligations.OnlyCommandWritesChangeResults : Prop :=
  ∀ (s t : State) (a : Access) (rest : List PortEvent), s.port = .access a :: rest → step s = .next t →
    ((∀ w, a ≠ .write .reg 0x00 4 w) → t.results = s.results ∧ t.hidden = s.hidden) ∧
    (∀ sp k n, a = .read sp k n → ∃ v, t = { s with port := rest, replies := s.replies ++ [v] })

/-! ### What every command has in common -/

/-- R35: input state is never changed by any command: not `ILEN`, not a cell of `IBUF`, not an `M_*` register. -/
def Obligations.CommandsNeverChangeInputState : Prop :=
  ∀ (i : Instr) (s t : State), exec i s = .next t →
    t.cap = s.cap ∧ t.ilen = s.ilen ∧ t.m = s.m ∧ t.port = s.port ∧ t.replies = s.replies ∧
      ∀ a, t.ibuf.read a = s.ibuf.read a

/-- R32: the input of a command is the bytes of cells 0 to `ILEN - 1` in order, when all of them are written. -/
def Obligations.InputIsTheWrittenPrefix : Prop :=
  ∀ (s : State) (raw : List Byte),
    s.input = some raw ↔ raw.length = s.ilen ∧ ∀ k, k < s.ilen → s.ibuf.read k = raw[k]?

/-- R32, R66 (i), R253: a command is refused when a cell of its input is unwritten, and completes on every other input,
with `CMD` holding its word and `DONE` set. -/
def Obligations.CommandCompletesOnEveryWrittenInput : Prop :=
  ∀ (i : Instr) (s : State),
    ((∃ k, k < s.ilen ∧ s.ibuf.read k = none) → exec i s = .refused .unwrittenInput) ∧
    ((∀ k, k < s.ilen → s.ibuf.read k ≠ none) →
      ∃ t, exec i s = .next t ∧ t.cmd = encode i ∧ t.status.getLsbD 8 = true ∧ legalStatus t.status)

/-- R45, R17: two states that agree in `ILEN`, in the cells below it and in the `M_*` registers the command reads give
the same results, whatever commands ran before. -/
def Obligations.ResultsDependOnlyOnTheInput : Prop :=
  ∀ (i : Instr) (s₁ s₂ : State), s₁.ilen = s₂.ilen → (∀ k, k < s₁.ilen → s₁.ibuf.read k = s₂.ibuf.read k) →
    metaAgree (metaReader i) s₁.m s₂.m →
      (∃ t₁ t₂, exec i s₁ = .next t₁ ∧ exec i s₂ = .next t₂ ∧ t₁.results = t₂.results) ∨
      (exec i s₁ = .refused .unwrittenInput ∧ exec i s₂ = .refused .unwrittenInput)

/-- The invariant holds after reset (R10, R24 to R27, R48). -/
def Obligations.InvariantHoldsAtReset : Prop := State.reset.Inv

/-- Every step keeps the invariant, from every state that has it (R10, R24 to R28, R32, R35, R216). -/
def Obligations.EveryStepKeepsTheInvariant : Prop := ∀ s t : State, s.Inv → step s = .next t → t.Inv

/-! ### The checksum commands and generators -/

/-- R123: `CRC32` puts the CRC-32 of its input in `CRC_CALC` and clears every other result. -/
def Obligations.Crc32CommandResult : Prop :=
  ∀ (s : State) (raw : List Byte), s.input = some raw →
    ∃ h, exec .crc32 s = .next (s.withResults ⟨0x1000, 0x100, [], [], Extracted.zero, crc32Ieee raw, 0⟩ h)

/-- R129: `CRC16` puts the CRC-16 of its input in the low half of `CRC_CALC` and clears every other result. -/
def Obligations.Crc16CommandResult : Prop :=
  ∀ (s : State) (raw : List Byte), s.input = some raw →
    ∃ h, exec .crc16 s =
      .next (s.withResults ⟨0x2000, 0x100, [], [], Extracted.zero, (0 : Half) ++ crc16Ccitt raw, 0⟩ h)

/-- R122, R127: corner values of both generators. The CRC-32 values rest on the algorithm the spec supplies from general
knowledge (assumption 6). -/
def Obligations.ChecksumCornerValues : Prop :=
  crc32Ieee [] = 0x00000000 ∧ crc32Ieee [0x00] = 0xD202EF8D ∧ crc32Ieee [0xFF] = 0xFF000000 ∧
    crc32Ieee [0x31, 0x32, 0x33, 0x34, 0x35, 0x36, 0x37, 0x38, 0x39] = 0xCBF43926 ∧
    crc16Ccitt [] = 0xFFFF ∧ crc16Ccitt [0x00] = 0xE1F0 ∧ crc16Ccitt [0xFF] = 0xFF00 ∧
    crc16Ccitt [0x31, 0x32, 0x33, 0x34, 0x35, 0x36, 0x37, 0x38, 0x39] = 0x29B1

/-- R126: the serial shift register with one data bit per clock is the byte step of CRC-16. -/
def Obligations.SerialShiftRegisterIsCrc16 : Prop := ∀ (c : Half) (b : Byte), crc16ByteSerial c b = crc16Byte c b

/-- R121, R127: the table-driven byte steps equal the bit-at-a-time ones, for both generators. -/
def Obligations.TableDrivenFormsAreTheGenerators : Prop :=
  (∀ (c : Half) (b : Byte), crc16ByteTable c b = crc16Byte c b) ∧
    ∀ (c : Word) (b : Byte), crc32ByteTable c b = crc32Byte c b

/-- R125: truncating the CRC-16 register once at the end gives what truncating it at every shift gives. -/
def Obligations.LateTruncationIsCrc16 : Prop := ∀ s : List Byte, crc16Late s = crc16Ccitt s

/-- R127: a sequence followed by its own CRC-16, most significant byte first, has the CRC-16 zero. -/
def Obligations.Crc16ResidueIsZero : Prop := ∀ s : List Byte, crc16Ccitt (s ++ be16 (crc16Ccitt s)) = 0x0000

/-- R131: a frame its decoder accepts is rejected with `ChecksumMismatch` after any one of its bits is flipped, for
every protocol and every length. -/
def Obligations.SingleBitErrorIsAlwaysDetected : Prop :=
  ∀ (p : Protocol) (f : List Byte) (m : Message) (i k : Nat),
    decodeBy p f = .ok m → i < f.length → k < 8 → decodeBy p (flipBit f i k) = .error .checksumMismatch

/-! ### Byte order, fields, and the codecs as functions -/

/-- R13, R70: the conversions are big-endian and inverse to each other. -/
def Obligations.ConversionsAreBigEndian : Prop :=
  (∀ a b : Byte, (u16be [a, b]).toNat = a.toNat * 256 + b.toNat ∧ be16 (u16be [a, b]) = [a, b]) ∧
    (∀ a b c d : Byte,
      (u32be [a, b, c, d]).toNat = a.toNat * 2 ^ 24 + b.toNat * 2 ^ 16 + c.toNat * 2 ^ 8 + d.toNat ∧
        be32 (u32be [a, b, c, d]) = [a, b, c, d]) ∧
    (∀ v : Half, u16be (be16 v) = v) ∧ ∀ v : Word, u32be (be32 v) = v

/-- R141, R151, R161, R171: the fields each decoder extracts, at their fixed offsets, from a header of the protocol's
length; every other `X_*` value is 0 and every header is accepted. -/
def Obligations.FieldsStandAtFixedOffsets : Prop :=
  (∀ b0 b1 b2 : Byte,
    fieldsAos [b0, b1, b2] =
      { Extracted.zero with scid := BitVec.ofNat 16 (b0.toNat * 256 + b1.toNat), vcid := b2 }) ∧
  (∀ b0 b1 b2 b3 b4 b5 b6 b7 b8 : Byte,
    fieldsCcsds [b0, b1, b2, b3, b4, b5, b6, b7, b8] =
      { Extracted.zero with ptype := b1, apid := b6, plen := BitVec.ofNat 16 (b7.toNat * 256 + b8.toNat) }) ∧
  (∀ b0 b1 b2 b3 b4 b5 b6 b7 b8 b9 b10 b11 : Byte,
    fieldsPusTm [b0, b1, b2, b3, b4, b5, b6, b7, b8, b9, b10, b11] =
      { Extracted.zero with svc := b6, subsvc := b7, tsmark := b2 }) ∧
  (∀ b0 b1 b2 b3 b4 b5 b6 b7 b8 b9 : Byte,
    fieldsPusTc [b0, b1, b2, b3, b4, b5, b6, b7, b8, b9] = { Extracted.zero with svc := b0, subsvc := b1 })

/-- R143: the prefix `00 7B 7C` is dropped once, and any other sequence is returned unmodified, one shorter than three
bytes too. -/
def Obligations.MagicPrefixIsStrippedOnce : Prop :=
  (∀ rest : List Byte, stripMagic (0x00 :: 0x7B :: 0x7C :: rest) = rest) ∧
    ∀ s : List Byte, (¬ ∃ rest, s = 0x00 :: 0x7B :: 0x7C :: rest) → stripMagic s = s

/-- R147, R157, R167, R178, R177: decoding an encoded frame gives the payload back (less a magic prefix for AOS), with
exactly the header bytes of R145, R155, R165 or R175, whose fields are the parameters encoded; the frame is longer than
the payload by the protocol's minimum length. -/
def Obligations.DecodeOfEncodedFrame : Prop :=
  ∀ (p : Protocol) (payload : List Byte) (m : Meta),
    (encodeBy p payload m).length = payload.length + minimumLength p ∧
    ∃ header, header = encodedHeader m payload.length p ∧ header.length = (layout p).headerLength ∧
      fieldsBy p header = encodedFields m payload.length p ∧
      decodeBy p (encodeBy p payload m) =
        .ok ⟨header, if p = .aos then stripMagic payload else payload⟩

/-- R167: the block cannot tell protocols that share a generator apart: an accepted PUS_TC frame is accepted as PUS_TM
from 14 bytes on, cut two bytes later, and is too short below; an accepted AOS frame is accepted as CCSDS from 13
bytes on, cut at offset 9, and is too short below. -/
def Obligations.FrameOfSharedGeneratorIsAccepted : Prop :=
  (∀ (f : List Byte) (m : Message), decodePusTc f = .ok m →
    (14 ≤ f.length → decodePusTm f = .ok ⟨f.take 12, m.payload.drop 2⟩) ∧
    (f.length < 14 → decodePusTm f = .error .tooShort)) ∧
  (∀ (f : List Byte) (m : Message), decodeAos f = .ok m →
    (13 ≤ f.length → decodeCcsds f = .ok ⟨f.take 9, (f.take (f.length - 4)).drop 9⟩) ∧
    (f.length < 13 → decodeCcsds f = .error .tooShort))

/-! ### `DEC.P` -/

/-- R144: `DEC.AOS` raises `TooShort` below 7 bytes, then `ChecksumMismatch`, and otherwise writes header, payload less
the magic prefix, the two AOS fields and both CRCs. -/
def Obligations.DecAosResult : Prop :=
  ∀ (s : State) (raw : List Byte), s.input = some raw →
    (raw.length < 7 → ∃ h, exec .decAos s = .next (s.withResults (Results.error 0x3000 0x102) h)) ∧
    (7 ≤ raw.length → crc32Ieee (raw.take (raw.length - 4)) ≠ u32be (raw.drop (raw.length - 4)) →
      ∃ h, exec .decAos s = .next (s.withResults (Results.error 0x3000 0x103) h)) ∧
    (7 ≤ raw.length → crc32Ieee (raw.take (raw.length - 4)) = u32be (raw.drop (raw.length - 4)) →
      ∃ h, exec .decAos s = .next (s.withResults
        ⟨0x3000, 0x100, stripMagic ((raw.take (raw.length - 4)).drop 3), raw.take 3,
          { Extracted.zero with scid := byteAt raw 0 ++ byteAt raw 1, vcid := byteAt raw 2 },
          crc32Ieee (raw.take (raw.length - 4)), u32be (raw.drop (raw.length - 4))⟩ h))

/-- R174: `DEC.CCSDS` raises `TooShort` below 13 bytes, then `ChecksumMismatch`, and otherwise writes header, payload,
the three CCSDS fields and both CRCs; `packetLength` is not validated. -/
def Obligations.DecCcsdsResult : Prop :=
  ∀ (s : State) (raw : List Byte), s.input = some raw →
    (raw.length < 13 → ∃ h, exec .decCcsds s = .next (s.withResults (Results.error 0x3010 0x102) h)) ∧
    (13 ≤ raw.length → crc32Ieee (raw.take (raw.length - 4)) ≠ u32be (raw.drop (raw.length - 4)) →
      ∃ h, exec .decCcsds s = .next (s.withResults (Results.error 0x3010 0x103) h)) ∧
    (13 ≤ raw.length → crc32Ieee (raw.take (raw.length - 4)) = u32be (raw.drop (raw.length - 4)) →
      ∃ h, exec .decCcsds s = .next (s.withResults
        ⟨0x3010, 0x100, (raw.take (raw.length - 4)).drop 9, raw.take 9,
          { Extracted.zero with
            ptype := byteAt raw 1, apid := byteAt raw 6, plen := byteAt raw 7 ++ byteAt raw 8 },
          crc32Ieee (raw.take (raw.length - 4)), u32be (raw.drop (raw.length - 4))⟩ h))

/-- R154: `DEC.PUS_TM` raises `TooShort` below 14 bytes, then `ChecksumMismatch`, and otherwise writes header, payload,
the service, subservice and timestamp-marker fields and both CRCs. -/
def Obligations.DecPusTmResult : Prop :=
  ∀ (s : State) (raw : List Byte), s.input = some raw →
    (raw.length < 14 → ∃ h, exec .decPusTm s = .next (s.withResults (Results.error 0x3020 0x102) h)) ∧
    (14 ≤ raw.length → crc16Ccitt (raw.take (raw.length - 2)) ≠ u16be (raw.drop (raw.length - 2)) →
      ∃ h, exec .decPusTm s = .next (s.withResults (Results.error 0x3020 0x103) h)) ∧
    (14 ≤ raw.length → crc16Ccitt (raw.take (raw.length - 2)) = u16be (raw.drop (raw.length - 2)) →
      ∃ h, exec .decPusTm s = .next (s.withResults
        ⟨0x3020, 0x100, (raw.take (raw.length - 2)).drop 12, raw.take 12,
          { Extracted.zero with svc := byteAt raw 6, subsvc := byteAt raw 7, tsmark := byteAt raw 2 },
          (0 : Half) ++ crc16Ccitt (raw.take (raw.length - 2)),
          (0 : Half) ++ u16be (raw.drop (raw.length - 2))⟩ h))

/-- R164: `DEC.PUS_TC` raises `TooShort` below 12 bytes, then `ChecksumMismatch`, and otherwise writes header, payload,
the service and subservice fields and both CRCs; `X_TSMARK` is 0. -/
def Obligations.DecPusTcResult : Prop :=
  ∀ (s : State) (raw : List Byte), s.input = some raw →
    (raw.length < 12 → ∃ h, exec .decPusTc s = .next (s.withResults (Results.error 0x3030 0x102) h)) ∧
    (12 ≤ raw.length → crc16Ccitt (raw.take (raw.length - 2)) ≠ u16be (raw.drop (raw.length - 2)) →
      ∃ h, exec .decPusTc s = .next (s.withResults (Results.error 0x3030 0x103) h)) ∧
    (12 ≤ raw.length → crc16Ccitt (raw.take (raw.length - 2)) = u16be (raw.drop (raw.length - 2)) →
      ∃ h, exec .decPusTc s = .next (s.withResults
        ⟨0x3030, 0x100, (raw.take (raw.length - 2)).drop 10, raw.take 10,
          { Extracted.zero with svc := byteAt raw 0, subsvc := byteAt raw 1 },
          (0 : Half) ++ crc16Ccitt (raw.take (raw.length - 2)),
          (0 : Half) ++ u16be (raw.drop (raw.length - 2))⟩ h))

/-! ### `ENC.P` -/

/-- R146: `ENC.AOS` puts header, payload and the CRC-32 of both in `OBUF` and that CRC in `CRC_CALC`; the parameters are
`M_SCID` and `M_VCID` with `UM = 1`, zero without. -/
def Obligations.EncAosResult : Prop :=
  ∀ (s : State) (um : Bool) (payload body : List Byte), s.input = some payload →
    body = (if um then [s.m.scid.extractLsb' 8 8, s.m.scid.extractLsb' 0 8, s.m.vcid] else [0, 0, 0]) ++ payload →
      ∃ h, exec (.encAos um) s = .next (s.withResults
        ⟨withUm 0x4000 um, 0x100, body ++ be32 (crc32Ieee body), [], Extracted.zero, crc32Ieee body, 0⟩ h)

/-- R176, R175: `ENC.CCSDS` puts the 9-byte header, payload and the CRC-32 of both in `OBUF` and that CRC in `CRC_CALC`;
`packetLength` is the low 16 bits of the payload's length plus 6. -/
def Obligations.EncCcsdsResult : Prop :=
  ∀ (s : State) (um : Bool) (payload body : List Byte), s.input = some payload →
    body = [0x00, if um then s.m.ptype else 0, 0x00, 0x00, if um then s.m.seq.extractLsb' 8 8 else 0,
        if um then s.m.seq.extractLsb' 0 8 else 0, if um then s.m.apid else 0,
        BitVec.ofNat 8 ((payload.length + 6) / 256), BitVec.ofNat 8 (payload.length + 6)] ++ payload →
      ∃ h, exec (.encCcsds um) s = .next (s.withResults
        ⟨withUm 0x4001 um, 0x100, body ++ be32 (crc32Ieee body), [], Extracted.zero, crc32Ieee body, 0⟩ h)

/-- R156, R155: `ENC.PUS_TM` puts the 12-byte header, zero but for offsets 6 and 7, payload and the CRC-16 of both in
`OBUF` and that CRC in `CRC_CALC`. -/
def Obligations.EncPusTmResult : Prop :=
  ∀ (s : State) (um : Bool) (payload body : List Byte), s.input = some payload →
    body = [0, 0, 0, 0, 0, 0, if um then s.m.svc else 0, if um then s.m.subsvc else 0, 0, 0, 0, 0] ++ payload →
      ∃ h, exec (.encPusTm um) s = .next (s.withResults
        ⟨withUm 0x4002 um, 0x100, body ++ be16 (crc16Ccitt body), [], Extracted.zero,
          (0 : Half) ++ crc16Ccitt body, 0⟩ h)

/-- R166, R165: `ENC.PUS_TC` puts the 10-byte header, zero but for offsets 0 and 1, payload and the CRC-16 of both in
`OBUF` and that CRC in `CRC_CALC`. -/
def Obligations.EncPusTcResult : Prop :=
  ∀ (s : State) (um : Bool) (payload body : List Byte), s.input = some payload →
    body = [if um then s.m.svc else 0, if um then s.m.subsvc else 0, 0, 0, 0, 0, 0, 0, 0, 0] ++ payload →
      ∃ h, exec (.encPusTc um) s = .next (s.withResults
        ⟨withUm 0x4003 um, 0x100, body ++ be16 (crc16Ccitt body), [], Extracted.zero,
          (0 : Half) ++ crc16Ccitt body, 0⟩ h)

/-! ### `CONV.S.T` -/

/-- R182, R184: a passthrough returns its input unchanged on every input, with no check, clears every other result and
ends normally, and `UM` reaches nothing but `CMD`. That the hidden registers stay, since no generator runs, is the
model's choice (assumption 3, DESIGN CHOICE): the spec leaves their values open (U9). -/
def Obligations.PassthroughReturnsItsInput : Prop :=
  ∀ (s : State) (um : Bool) (raw : List Byte), s.input = some raw →
    exec (.convAosAos um) s = .next (s.withResults (Results.output (withUm 0x5000 um) raw) s.hidden) ∧
    exec (.convCcsdsCcsds um) s = .next (s.withResults (Results.output (withUm 0x5011 um) raw) s.hidden) ∧
    exec (.convPusTmPusTm um) s = .next (s.withResults (Results.output (withUm 0x5022 um) raw) s.hidden) ∧
    exec (.convPusTcPusTc um) s = .next (s.withResults (Results.output (withUm 0x5033 um) raw) s.hidden)

/-- R185 to R187, R217: the three conversions from AOS fail, wrapped, as `DEC.AOS` fails, and otherwise encode the
decoded payload, less a magic prefix, with the target's parameters. -/
def Obligations.ConvFromAosResult : Prop :=
  ∀ (s : State) (um : Bool) (raw : List Byte), s.input = some raw →
    ∀ e ∈ [(Instr.convAosCcsds um, withUm 0x5001 um, encodeCcsds), (Instr.convAosPusTm um, withUm 0x5002 um, encodePusTm),
        (Instr.convAosPusTc um, withUm 0x5003 um, encodePusTc)],
      (raw.length < 7 → ∃ h, exec e.1 s = .next (s.withResults (Results.error e.2.1 0x124) h)) ∧
      (7 ≤ raw.length → crc32Ieee (raw.take (raw.length - 4)) ≠ u32be (raw.drop (raw.length - 4)) →
        ∃ h, exec e.1 s = .next (s.withResults (Results.error e.2.1 0x134) h)) ∧
      (7 ≤ raw.length → crc32Ieee (raw.take (raw.length - 4)) = u32be (raw.drop (raw.length - 4)) →
        ∃ h, exec e.1 s = .next (s.withResults (Results.output e.2.1
          (e.2.2 (stripMagic ((raw.take (raw.length - 4)).drop 3)) (if um then s.m else Meta.zero))) h))

/-- R188, R190, R191, R217: the three conversions from CCSDS fail, wrapped, as `DEC.CCSDS` fails, and otherwise encode
the decoded payload with the target's parameters. -/
def Obligations.ConvFromCcsdsResult : Prop :=
  ∀ (s : State) (um : Bool) (raw : List Byte), s.input = some raw →
    ∀ e ∈ [(Instr.convCcsdsAos um, withUm 0x5010 um, encodeAos), (Instr.convCcsdsPusTm um, withUm 0x5012 um, encodePusTm),
        (Instr.convCcsdsPusTc um, withUm 0x5013 um, encodePusTc)],
      (raw.length < 13 → ∃ h, exec e.1 s = .next (s.withResults (Results.error e.2.1 0x124) h)) ∧
      (13 ≤ raw.length → crc32Ieee (raw.take (raw.length - 4)) ≠ u32be (raw.drop (raw.length - 4)) →
        ∃ h, exec e.1 s = .next (s.withResults (Results.error e.2.1 0x134) h)) ∧
      (13 ≤ raw.length → crc32Ieee (raw.take (raw.length - 4)) = u32be (raw.drop (raw.length - 4)) →
        ∃ h, exec e.1 s = .next (s.withResults (Results.output e.2.1
          (e.2.2 ((raw.take (raw.length - 4)).drop 9) (if um then s.m else Meta.zero))) h))

/-- R192, R193, R195, R217: the three conversions from PUS_TM fail, wrapped, as `DEC.PUS_TM` fails, and otherwise encode
the decoded payload with the target's parameters; the source's service fields are not copied. -/
def Obligations.ConvFromPusTmResult : Prop :=
  ∀ (s : State) (um : Bool) (raw : List Byte), s.input = some raw →
    ∀ e ∈ [(Instr.convPusTmAos um, withUm 0x5020 um, encodeAos), (Instr.convPusTmCcsds um, withUm 0x5021 um, encodeCcsds),
        (Instr.convPusTmPusTc um, withUm 0x5023 um, encodePusTc)],
      (raw.length < 14 → ∃ h, exec e.1 s = .next (s.withResults (Results.error e.2.1 0x124) h)) ∧
      (14 ≤ raw.length → crc16Ccitt (raw.take (raw.length - 2)) ≠ u16be (raw.drop (raw.length - 2)) →
        ∃ h, exec e.1 s = .next (s.withResults (Results.error e.2.1 0x134) h)) ∧
      (14 ≤ raw.length → crc16Ccitt (raw.take (raw.length - 2)) = u16be (raw.drop (raw.length - 2)) →
        ∃ h, exec e.1 s = .next (s.withResults (Results.output e.2.1
          (e.2.2 ((raw.take (raw.length - 2)).drop 12) (if um then s.m else Meta.zero))) h))

/-- R196 to R198, R217: the three conversions from PUS_TC fail, wrapped, as `DEC.PUS_TC` fails, and otherwise encode the
decoded payload with the target's parameters. -/
def Obligations.ConvFromPusTcResult : Prop :=
  ∀ (s : State) (um : Bool) (raw : List Byte), s.input = some raw →
    ∀ e ∈ [(Instr.convPusTcAos um, withUm 0x5030 um, encodeAos), (Instr.convPusTcCcsds um, withUm 0x5031 um, encodeCcsds),
        (Instr.convPusTcPusTm um, withUm 0x5032 um, encodePusTm)],
      (raw.length < 12 → ∃ h, exec e.1 s = .next (s.withResults (Results.error e.2.1 0x124) h)) ∧
      (12 ≤ raw.length → crc16Ccitt (raw.take (raw.length - 2)) ≠ u16be (raw.drop (raw.length - 2)) →
        ∃ h, exec e.1 s = .next (s.withResults (Results.error e.2.1 0x134) h)) ∧
      (12 ≤ raw.length → crc16Ccitt (raw.take (raw.length - 2)) = u16be (raw.drop (raw.length - 2)) →
        ∃ h, exec e.1 s = .next (s.withResults (Results.output e.2.1
          (e.2.2 ((raw.take (raw.length - 2)).drop 10) (if um then s.m else Meta.zero))) h))

/-- R200: the output of a conversion that succeeds is as long as its input when the protocols are equal; otherwise it
differs by the difference of the minimum lengths, less 3 more when an AOS magic prefix was stripped. -/
def Obligations.ConversionOutputLength : Prop :=
  ∀ (s t : State) (p q : Protocol) (um : Bool) (raw : List Byte),
    s.input = some raw → exec (convInstr um p q) s = .next t → t.status = 0x100 →
      (p = q → t.obuf.length = s.ilen) ∧
      (p ≠ q → t.obuf.length + minimumLength p +
        (if p = .aos ∧ 10 ≤ raw.length ∧ (raw.drop 3).take 3 = [0x00, 0x7B, 0x7C] then 3 else 0) =
          s.ilen + minimumLength q)

/-- R201: a conversion is exact in the payload: the target's decoder accepts the output and gives the source's payload
back, less a magic prefix when the target is AOS, and the whole header is determined by the parameters and the payload's
length alone: every byte of it, and so its fields. -/
def Obligations.ConversionKeepsThePayload : Prop :=
  ∀ (p q : Protocol) (raw : List Byte) (m : Meta) (msg : Message), p ≠ q → decodeBy p raw = .ok msg →
    ∃ out header, convert p q raw m = .ok out ∧
      decodeBy q out = .ok ⟨header, if q = .aos then stripMagic msg.payload else msg.payload⟩ ∧
      header = encodedHeader m msg.payload.length q ∧ fieldsBy q header = encodedFields m msg.payload.length q

/-- R243: the commands straight after reset, with no input written. -/
def Obligations.CommandsStraightAfterReset : Prop :=
  (∀ e ∈ [(0x1000, (0x00000000 : Word)), (0x2000, 0x0000FFFF)],
    ∃ t, step (State.reset.withFetchWord 16 e.1) = .next t ∧ t.status = 0x100 ∧ t.crcCalc = e.2) ∧
  (∀ w ∈ [0x3000, 0x3010, 0x3020, 0x3030],
    ∃ t, step (State.reset.withFetchWord 16 w) = .next t ∧ t.status = 0x102) ∧
  (∀ e ∈ [(0x4000, ([0x00, 0x00, 0x00, 0xFF, 0x41, 0xD9, 0x12] : List Byte)),
      (0x4001, zeros 8 ++ [0x06, 0x0F, 0x6A, 0xB1, 0x9B]), (0x4002, zeros 12 ++ [0x84, 0xF9]),
      (0x4003, zeros 10 ++ [0xE1, 0x39])],
    ∃ t u, step (State.reset.withFetchWord 16 e.1) = .next t ∧ t.status = 0x100 ∧ t.obuf = e.2 ∧
      step (State.reset.withFetchWord 16 (e.1 + 0x100)) = .next u ∧ u.status = 0x100 ∧ u.obuf = e.2) ∧
  (∀ w ∈ [0x5000, 0x5011, 0x5022, 0x5033],
    ∃ t, step (State.reset.withFetchWord 16 w) = .next t ∧ t.status = 0x100 ∧ t.obuf = []) ∧
  (∀ w ∈ [0x5001, 0x5002, 0x5003, 0x5010, 0x5012, 0x5013, 0x5020, 0x5021, 0x5023, 0x5030, 0x5031, 0x5032],
    ∃ t, step (State.reset.withFetchWord 16 w) = .next t ∧ t.status = 0x124)

/-! ### The driver's side -/

/-- R113: `parse_tag` yields a protocol on its exact string and on no other; an assembler emits 15 for the rest. -/
def Obligations.TagStringsParseExactly : Prop :=
  (∀ (str : List Byte) (p : Protocol), parseTag str = some p ↔ str = tagString p) ∧
    ∀ str : List Byte, (∀ p, str ≠ tagString p) → assembleTag str = 15

/-- R110: a command line over known tag strings assembles to the word of its command. -/
def Obligations.AssembledWordIsTheCommandsWord : Prop :=
  assembleCommand .crc32 = encode .crc32 ∧ assembleCommand .crc16 = encode .crc16 ∧
    (∀ p : Protocol, assembleCommand (.dec (tagString p)) = encode (decInstr p)) ∧
    (∀ (p : Protocol) (um : Bool), assembleCommand (.enc (tagString p) um) = encode (encInstr um p)) ∧
    ∀ (p q : Protocol) (um : Bool), assembleCommand (.conv (tagString p) (tagString q) um) = encode (convInstr um p q)

/-- R112: after `LOAD` of a sequence that fits, the next command's input is that sequence, and no result, no `M_*`
register and no cell above it has changed. -/
def Obligations.LoadPlacesTheInput : Prop :=
  ∀ (s : State) (bs : List Byte), bs.length ≤ s.cap → bs.length < 2 ^ 32 → s.port = asEvents (pseudoLoad bs) →
    ∃ m, runPort s = .next { s with port := [], ibuf := m, ilen := bs.length } ∧
      (∀ k, k < bs.length → Memory.read m k = bs[k]?) ∧ ∀ k, bs.length ≤ k → Memory.read m k = s.ibuf.read k

/-- R112: `MOVE` copies the last output into the input, its reads return `OLEN` and the output's bytes, and no cell above
the output, no result and no `M_*` register has changed. -/
def Obligations.MoveCopiesTheOutput : Prop :=
  ∀ s : State, s.obuf.length ≤ s.cap → s.obuf.length < 2 ^ 32 → s.port = asEvents (pseudoMove s.obuf) →
    ∃ m, runPort s = .next { s with
        port := []
        ibuf := m
        ilen := s.obuf.length
        replies := s.replies ++ BitVec.ofNat 32 s.obuf.length :: s.obuf.map (BitVec.setWidth 32) } ∧
      (∀ k, k < s.obuf.length → Memory.read m k = s.obuf[k]?) ∧
      ∀ k, s.obuf.length ≤ k → Memory.read m k = s.ibuf.read k

/-- R112: `META` sets the named `M_*` registers, one after the other in the order written, each to the low bits of its
value, and changes nothing else. -/
def Obligations.MetaSetsTheNamedRegisters : Prop :=
  ∀ (s : State) (pairs : List (MetaName × Word)), s.port = asEvents (pseudoMeta pairs) →
    runPort s = .next { s with port := [], m := pairs.foldl metaAssign s.m }

/-- R112: `CLRMETA` sets every `M_*` register to 0 and changes nothing else. -/
def Obligations.ClrmetaZeroesTheMetadata : Prop :=
  ∀ s : State, s.port = asEvents pseudoClrmeta → runPort s = .next { s with port := [], m := ⟨0, 0, 0, 0, 0, 0, 0⟩ }
end

