-- ==== Sys2Proof/Laws/Memory.lean ====
section
/-! SUPPORT. The laws of the input buffer: read after write, the canonical form, and the input operand. -/

namespace Sys2Proof.Machine

/-- A written cell holds what was written (R62). -/
@[simp] theorem Memory.read_write_same (m : Memory) (a : Nat) (b : Byte) : (m.write a b).read a = some b := by
  induction m with
  | nil => simp [Memory.write, Memory.read]
  | cons p rest ih =>
    simp only [Memory.write]
    split
    · simp [Memory.read]
    · split
      · simp [Memory.read]
      · next h => simp [Memory.read, h, ih]

/-- A write leaves every other cell alone (R62). -/
theorem Memory.read_write_other {m : Memory} {a k : Nat} (b : Byte) (h : k ≠ a) :
    (m.write a b).read k = m.read k := by
  induction m with
  | nil => simp [Memory.write, Memory.read, Ne.symm h]
  | cons p rest ih =>
    simp only [Memory.write]
    split
    · simp [Memory.read, Ne.symm h]
    · split
      · next e => simp [Memory.read, Ne.symm h, e]
      · simp [Memory.read, ih]

/-- Every entry after a write is the written one or was there before. -/
theorem Memory.mem_write {m : Memory} {a : Nat} {b : Byte} {p : Host.Cell} (h : p ∈ m.write a b) :
    p = (a, b) ∨ p ∈ m := by
  induction m with
  | nil => simpa [Memory.write] using h
  | cons q rest ih =>
    simp only [Memory.write] at h
    split at h
    · simpa using h
    · split at h
      · rcases List.mem_cons.mp h with h | h
        · exact .inl h
        · exact .inr (List.mem_cons_of_mem _ h)
      · rcases List.mem_cons.mp h with h | h
        · exact .inr (h ▸ List.mem_cons_self)
        · exact (ih h).imp id (List.mem_cons_of_mem _)

/-- A write keeps the canonical form. -/
theorem Memory.wf_write {m : Memory} (h : Memory.wf m) (a : Nat) (b : Byte) : Memory.wf (m.write a b) := by
  induction m with
  | nil => simp [Memory.write]
  | cons q rest ih =>
    obtain ⟨hq, hrest⟩ := List.pairwise_cons.mp h
    simp only [Memory.write]
    split
    · next hlt =>
      refine List.pairwise_cons.mpr ⟨fun p hp => ?_, h⟩
      rcases List.mem_cons.mp hp with rfl | hp
      · exact hlt
      · exact lt_trans hlt (hq p hp)
    · split
      · next e => exact List.pairwise_cons.mpr ⟨fun p hp => by simpa [← e] using hq p hp, hrest⟩
      · refine List.pairwise_cons.mpr ⟨fun p hp => ?_, ih hrest⟩
        rcases Memory.mem_write hp with rfl | hp
        · show q.1 < a
          omega
        · exact hq p hp

/-- The empty buffer, the one after reset, is in canonical form. -/
theorem reset_ibuf_wf : Memory.wf State.reset.ibuf := List.Pairwise.nil

/-- The input operand has as many bytes as it was asked for. -/
theorem Memory.bytesFrom_length {m : Memory} {a n : Nat} {bs : List Byte} (h : m.bytesFrom a n = some bs) :
    bs.length = n := by
  induction n generalizing a bs with
  | zero => simp [Memory.bytesFrom] at h; simp [h]
  | succ n ih =>
    simp only [Memory.bytesFrom] at h
    split at h
    · cases h
    · split at h
      · cases h
      · next hb => cases h; simp [ih hb]

/-- The input operand depends on its own cells alone. -/
theorem Memory.bytesFrom_congr {m m' : Memory} {a n : Nat}
    (h : ∀ k, a ≤ k → k < a + n → m.read k = m'.read k) : m.bytesFrom a n = m'.bytesFrom a n := by
  induction n generalizing a with
  | zero => rfl
  | succ n ih =>
    simp only [Memory.bytesFrom, h a le_rfl (by omega),
      ih (a := a + 1) (fun k hk hk' => h k (by omega) (by omega))]

/-- The input operand has no value exactly when one of its cells is unwritten (R66 (i)). -/
theorem Memory.bytesFrom_eq_none {m : Memory} {a n : Nat} :
    m.bytesFrom a n = none ↔ ∃ k, a ≤ k ∧ k < a + n ∧ m.read k = none := by
  induction n generalizing a with
  | zero => simp [Memory.bytesFrom]; omega
  | succ n ih =>
    simp only [Memory.bytesFrom]
    cases hr : m.read a with
    | none => exact ⟨fun _ => ⟨a, le_rfl, by omega, hr⟩, fun _ => rfl⟩
    | some b =>
      cases hb : m.bytesFrom (a + 1) n with
      | none =>
        obtain ⟨k, h1, h2, h3⟩ := ih.mp hb
        exact ⟨fun _ => ⟨k, by omega, by omega, h3⟩, fun _ => rfl⟩
      | some bs =>
        refine ⟨fun h => by simp at h, fun ⟨k, h1, h2, h3⟩ => ?_⟩
        have hk : k ≠ a := fun e => by simp [e, hr] at h3
        have hn : m.bytesFrom (a + 1) n = none := ih.mpr ⟨k, by omega, by omega, h3⟩
        simp [hb] at hn

/-- The length of the input is `ILEN` (R32). -/
theorem State.input_length {s : State} {raw : List Byte} (h : s.input = some raw) : raw.length = s.ilen :=
  Memory.bytesFrom_length h

end Sys2Proof.Machine
end

