-- ==== Sys2Proof/Laws/State.lean ====
section
/-! SUPPORT. One lemma per field of `State` for each of its updates, so that no proof unfolds an update, and the same for
the draw of a command that may run no checksum generator. -/

namespace Sys2Proof.Machine

@[simp] theorem State.clearResults_cap (s : State) : (State.clearResults s).cap = s.cap := rfl
@[simp] theorem State.clearResults_cmd (s : State) : (State.clearResults s).cmd = s.cmd := rfl
@[simp] theorem State.clearResults_status (s : State) : (State.clearResults s).status = s.status := rfl
@[simp] theorem State.clearResults_ilen (s : State) : (State.clearResults s).ilen = s.ilen := rfl
@[simp] theorem State.clearResults_crcCalc (s : State) : (State.clearResults s).crcCalc = 0 := rfl
@[simp] theorem State.clearResults_crcRcvd (s : State) : (State.clearResults s).crcRcvd = 0 := rfl
@[simp] theorem State.clearResults_m (s : State) : (State.clearResults s).m = s.m := rfl
@[simp] theorem State.clearResults_x (s : State) : (State.clearResults s).x = Extracted.zero := rfl
@[simp] theorem State.clearResults_ibuf (s : State) : (State.clearResults s).ibuf = s.ibuf := rfl
@[simp] theorem State.clearResults_obuf (s : State) : (State.clearResults s).obuf = [] := rfl
@[simp] theorem State.clearResults_hbuf (s : State) : (State.clearResults s).hbuf = [] := rfl
@[simp] theorem State.clearResults_hidden (s : State) : (State.clearResults s).hidden = s.hidden := rfl
@[simp] theorem State.clearResults_port (s : State) : (State.clearResults s).port = s.port := rfl
@[simp] theorem State.clearResults_replies (s : State) : (State.clearResults s).replies = s.replies := rfl

@[simp] theorem State.finish_cap (c : Half) (s : State) : (State.finish c s).cap = s.cap := rfl
@[simp] theorem State.finish_cmd (c : Half) (s : State) : (State.finish c s).cmd = c := rfl
@[simp] theorem State.finish_status (c : Half) (s : State) : (State.finish c s).status = successStatus := rfl
@[simp] theorem State.finish_ilen (c : Half) (s : State) : (State.finish c s).ilen = s.ilen := rfl
@[simp] theorem State.finish_crcCalc (c : Half) (s : State) : (State.finish c s).crcCalc = s.crcCalc := rfl
@[simp] theorem State.finish_crcRcvd (c : Half) (s : State) : (State.finish c s).crcRcvd = s.crcRcvd := rfl
@[simp] theorem State.finish_m (c : Half) (s : State) : (State.finish c s).m = s.m := rfl
@[simp] theorem State.finish_x (c : Half) (s : State) : (State.finish c s).x = s.x := rfl
@[simp] theorem State.finish_ibuf (c : Half) (s : State) : (State.finish c s).ibuf = s.ibuf := rfl
@[simp] theorem State.finish_obuf (c : Half) (s : State) : (State.finish c s).obuf = s.obuf := rfl
@[simp] theorem State.finish_hbuf (c : Half) (s : State) : (State.finish c s).hbuf = s.hbuf := rfl
@[simp] theorem State.finish_hidden (c : Half) (s : State) : (State.finish c s).hidden = s.hidden := rfl
@[simp] theorem State.finish_port (c : Half) (s : State) : (State.finish c s).port = s.port := rfl
@[simp] theorem State.finish_replies (c : Half) (s : State) : (State.finish c s).replies = s.replies := rfl

@[simp] theorem State.raise_cap (e : CmdError) (c : Half) (s : State) : (State.raise e c s).cap = s.cap := rfl
@[simp] theorem State.raise_cmd (e : CmdError) (c : Half) (s : State) : (State.raise e c s).cmd = c := rfl
@[simp] theorem State.raise_status (e : CmdError) (c : Half) (s : State) : (State.raise e c s).status = e.code := rfl
@[simp] theorem State.raise_ilen (e : CmdError) (c : Half) (s : State) : (State.raise e c s).ilen = s.ilen := rfl
@[simp] theorem State.raise_crcCalc (e : CmdError) (c : Half) (s : State) : (State.raise e c s).crcCalc = 0 := rfl
@[simp] theorem State.raise_crcRcvd (e : CmdError) (c : Half) (s : State) : (State.raise e c s).crcRcvd = 0 := rfl
@[simp] theorem State.raise_m (e : CmdError) (c : Half) (s : State) : (State.raise e c s).m = s.m := rfl
@[simp] theorem State.raise_x (e : CmdError) (c : Half) (s : State) : (State.raise e c s).x = Extracted.zero := rfl
@[simp] theorem State.raise_ibuf (e : CmdError) (c : Half) (s : State) : (State.raise e c s).ibuf = s.ibuf := rfl
@[simp] theorem State.raise_obuf (e : CmdError) (c : Half) (s : State) : (State.raise e c s).obuf = [] := rfl
@[simp] theorem State.raise_hbuf (e : CmdError) (c : Half) (s : State) : (State.raise e c s).hbuf = [] := rfl
@[simp] theorem State.raise_hidden (e : CmdError) (c : Half) (s : State) : (State.raise e c s).hidden = s.hidden := rfl
@[simp] theorem State.raise_port (e : CmdError) (c : Half) (s : State) : (State.raise e c s).port = s.port := rfl
@[simp] theorem State.raise_replies (e : CmdError) (c : Half) (s : State) :
    (State.raise e c s).replies = s.replies := rfl

@[simp] theorem State.drawHidden_cap (s : State) : (State.drawHidden s).cap = s.cap := rfl
@[simp] theorem State.drawHidden_cmd (s : State) : (State.drawHidden s).cmd = s.cmd := rfl
@[simp] theorem State.drawHidden_status (s : State) : (State.drawHidden s).status = s.status := rfl
@[simp] theorem State.drawHidden_ilen (s : State) : (State.drawHidden s).ilen = s.ilen := rfl
@[simp] theorem State.drawHidden_crcCalc (s : State) : (State.drawHidden s).crcCalc = s.crcCalc := rfl
@[simp] theorem State.drawHidden_crcRcvd (s : State) : (State.drawHidden s).crcRcvd = s.crcRcvd := rfl
@[simp] theorem State.drawHidden_m (s : State) : (State.drawHidden s).m = s.m := rfl
@[simp] theorem State.drawHidden_x (s : State) : (State.drawHidden s).x = s.x := rfl
@[simp] theorem State.drawHidden_ibuf (s : State) : (State.drawHidden s).ibuf = s.ibuf := rfl
@[simp] theorem State.drawHidden_obuf (s : State) : (State.drawHidden s).obuf = s.obuf := rfl
@[simp] theorem State.drawHidden_hbuf (s : State) : (State.drawHidden s).hbuf = s.hbuf := rfl
@[simp] theorem State.drawHidden_hidden (s : State) : (State.drawHidden s).hidden = s.hidden.draw := rfl
@[simp] theorem State.drawHidden_port (s : State) : (State.drawHidden s).port = s.port := rfl
@[simp] theorem State.drawHidden_replies (s : State) : (State.drawHidden s).replies = s.replies := rfl

@[simp] theorem State.decoded_cap (l : FrameLayout) (f : List Byte → Extracted) (raw : List Byte) (msg : Message) (s : State) :
    (State.decoded l f raw msg s).cap = s.cap := rfl
@[simp] theorem State.decoded_cmd (l : FrameLayout) (f : List Byte → Extracted) (raw : List Byte) (msg : Message) (s : State) :
    (State.decoded l f raw msg s).cmd = s.cmd := rfl
@[simp] theorem State.decoded_status (l : FrameLayout) (f : List Byte → Extracted) (raw : List Byte) (msg : Message) (s : State) :
    (State.decoded l f raw msg s).status = s.status := rfl
@[simp] theorem State.decoded_ilen (l : FrameLayout) (f : List Byte → Extracted) (raw : List Byte) (msg : Message) (s : State) :
    (State.decoded l f raw msg s).ilen = s.ilen := rfl
@[simp] theorem State.decoded_crcCalc (l : FrameLayout) (f : List Byte → Extracted) (raw : List Byte) (msg : Message) (s : State) :
    (State.decoded l f raw msg s).crcCalc = crcOf l.crcAlgorithm (remainderOf l raw) := rfl
@[simp] theorem State.decoded_crcRcvd (l : FrameLayout) (f : List Byte → Extracted) (raw : List Byte) (msg : Message) (s : State) :
    (State.decoded l f raw msg s).crcRcvd = rcvdOf l.crcAlgorithm (trailerBytes l raw) := rfl
@[simp] theorem State.decoded_m (l : FrameLayout) (f : List Byte → Extracted) (raw : List Byte) (msg : Message) (s : State) :
    (State.decoded l f raw msg s).m = s.m := rfl
@[simp] theorem State.decoded_x (l : FrameLayout) (f : List Byte → Extracted) (raw : List Byte) (msg : Message) (s : State) :
    (State.decoded l f raw msg s).x = f msg.header := rfl
@[simp] theorem State.decoded_ibuf (l : FrameLayout) (f : List Byte → Extracted) (raw : List Byte) (msg : Message) (s : State) :
    (State.decoded l f raw msg s).ibuf = s.ibuf := rfl
@[simp] theorem State.decoded_obuf (l : FrameLayout) (f : List Byte → Extracted) (raw : List Byte) (msg : Message) (s : State) :
    (State.decoded l f raw msg s).obuf = msg.payload := rfl
@[simp] theorem State.decoded_hbuf (l : FrameLayout) (f : List Byte → Extracted) (raw : List Byte) (msg : Message) (s : State) :
    (State.decoded l f raw msg s).hbuf = msg.header := rfl
@[simp] theorem State.decoded_hidden (l : FrameLayout) (f : List Byte → Extracted) (raw : List Byte) (msg : Message) (s : State) :
    (State.decoded l f raw msg s).hidden = s.hidden := rfl
@[simp] theorem State.decoded_port (l : FrameLayout) (f : List Byte → Extracted) (raw : List Byte) (msg : Message) (s : State) :
    (State.decoded l f raw msg s).port = s.port := rfl
@[simp] theorem State.decoded_replies (l : FrameLayout) (f : List Byte → Extracted) (raw : List Byte) (msg : Message) (s : State) :
    (State.decoded l f raw msg s).replies = s.replies := rfl

@[simp] theorem State.applyReset_cap (s : State) : (State.applyReset s).cap = s.cap := rfl
@[simp] theorem State.applyReset_cmd (s : State) : (State.applyReset s).cmd = 0 := rfl
@[simp] theorem State.applyReset_status (s : State) : (State.applyReset s).status = 0 := rfl
@[simp] theorem State.applyReset_ilen (s : State) : (State.applyReset s).ilen = 0 := rfl
@[simp] theorem State.applyReset_crcCalc (s : State) : (State.applyReset s).crcCalc = 0 := rfl
@[simp] theorem State.applyReset_crcRcvd (s : State) : (State.applyReset s).crcRcvd = 0 := rfl
@[simp] theorem State.applyReset_m (s : State) : (State.applyReset s).m = Meta.zero := rfl
@[simp] theorem State.applyReset_x (s : State) : (State.applyReset s).x = Extracted.zero := rfl
@[simp] theorem State.applyReset_ibuf (s : State) : (State.applyReset s).ibuf = [] := rfl
@[simp] theorem State.applyReset_obuf (s : State) : (State.applyReset s).obuf = [] := rfl
@[simp] theorem State.applyReset_hbuf (s : State) : (State.applyReset s).hbuf = [] := rfl
@[simp] theorem State.applyReset_hidden (s : State) : (State.applyReset s).hidden = s.hidden.draw := rfl
@[simp] theorem State.applyReset_port (s : State) : (State.applyReset s).port = s.port := rfl
@[simp] theorem State.applyReset_replies (s : State) : (State.applyReset s).replies = s.replies := rfl

@[simp] theorem State.withResults_cap (r : Results) (h : Hidden) (s : State) :
    (State.withResults r h s).cap = s.cap := rfl
@[simp] theorem State.withResults_cmd (r : Results) (h : Hidden) (s : State) :
    (State.withResults r h s).cmd = r.cmd := rfl
@[simp] theorem State.withResults_status (r : Results) (h : Hidden) (s : State) :
    (State.withResults r h s).status = r.status := rfl
@[simp] theorem State.withResults_ilen (r : Results) (h : Hidden) (s : State) :
    (State.withResults r h s).ilen = s.ilen := rfl
@[simp] theorem State.withResults_crcCalc (r : Results) (h : Hidden) (s : State) :
    (State.withResults r h s).crcCalc = r.crcCalc := rfl
@[simp] theorem State.withResults_crcRcvd (r : Results) (h : Hidden) (s : State) :
    (State.withResults r h s).crcRcvd = r.crcRcvd := rfl
@[simp] theorem State.withResults_m (r : Results) (h : Hidden) (s : State) : (State.withResults r h s).m = s.m := rfl
@[simp] theorem State.withResults_x (r : Results) (h : Hidden) (s : State) : (State.withResults r h s).x = r.x := rfl
@[simp] theorem State.withResults_ibuf (r : Results) (h : Hidden) (s : State) :
    (State.withResults r h s).ibuf = s.ibuf := rfl
@[simp] theorem State.withResults_obuf (r : Results) (h : Hidden) (s : State) :
    (State.withResults r h s).obuf = r.obuf := rfl
@[simp] theorem State.withResults_hbuf (r : Results) (h : Hidden) (s : State) :
    (State.withResults r h s).hbuf = r.hbuf := rfl
@[simp] theorem State.withResults_hidden (r : Results) (h : Hidden) (s : State) :
    (State.withResults r h s).hidden = h := rfl
@[simp] theorem State.withResults_port (r : Results) (h : Hidden) (s : State) :
    (State.withResults r h s).port = s.port := rfl
@[simp] theorem State.withResults_replies (r : Results) (h : Hidden) (s : State) :
    (State.withResults r h s).replies = s.replies := rfl

@[simp] theorem State.drawUnless_cap (b : Bool) (s : State) : (s.drawUnless b).cap = s.cap := by cases b <;> rfl
@[simp] theorem State.drawUnless_cmd (b : Bool) (s : State) : (s.drawUnless b).cmd = s.cmd := by cases b <;> rfl
@[simp] theorem State.drawUnless_status (b : Bool) (s : State) : (s.drawUnless b).status = s.status := by cases b <;> rfl
@[simp] theorem State.drawUnless_ilen (b : Bool) (s : State) : (s.drawUnless b).ilen = s.ilen := by cases b <;> rfl
@[simp] theorem State.drawUnless_crcCalc (b : Bool) (s : State) : (s.drawUnless b).crcCalc = s.crcCalc := by cases b <;> rfl
@[simp] theorem State.drawUnless_crcRcvd (b : Bool) (s : State) : (s.drawUnless b).crcRcvd = s.crcRcvd := by cases b <;> rfl
@[simp] theorem State.drawUnless_m (b : Bool) (s : State) : (s.drawUnless b).m = s.m := by cases b <;> rfl
@[simp] theorem State.drawUnless_x (b : Bool) (s : State) : (s.drawUnless b).x = s.x := by cases b <;> rfl
@[simp] theorem State.drawUnless_ibuf (b : Bool) (s : State) : (s.drawUnless b).ibuf = s.ibuf := by cases b <;> rfl
@[simp] theorem State.drawUnless_obuf (b : Bool) (s : State) : (s.drawUnless b).obuf = s.obuf := by cases b <;> rfl
@[simp] theorem State.drawUnless_hbuf (b : Bool) (s : State) : (s.drawUnless b).hbuf = s.hbuf := by cases b <;> rfl
@[simp] theorem State.drawUnless_hidden (b : Bool) (s : State) :
    (s.drawUnless b).hidden = if b then s.hidden else s.hidden.draw := by cases b <;> rfl
@[simp] theorem State.drawUnless_port (b : Bool) (s : State) : (s.drawUnless b).port = s.port := by cases b <;> rfl
@[simp] theorem State.drawUnless_replies (b : Bool) (s : State) : (s.drawUnless b).replies = s.replies := by cases b <;> rfl

@[simp] theorem State.drawUnless_true (s : State) : s.drawUnless true = s := rfl

@[simp] theorem State.drawUnless_false (s : State) : s.drawUnless false = s.drawHidden := rfl

@[simp] theorem State.withFetchWord_port (n w : Nat) (s : State) :
    (s.withFetchWord n w).port =
      .access (.write .reg (regOffset .cmd) 4 (BitVec.ofNat 32 (w % 2 ^ n))) :: s.port := rfl

@[simp] theorem State.withResults_results (r : Results) (h : Hidden) (s : State) :
    (State.withResults r h s).results = r := rfl

end Sys2Proof.Machine
end

