-- ==== Sys2Proof/Laws/Commands.lean ====
section
/-! SUPPORT. What each shared operation can do, said once: the provers cite these instead of unfolding the operation. -/

namespace Sys2Proof.Machine

/-- Every command is one of four shared operations, at its own command word. -/
theorem exec_shape (i : Instr) (s : State) :
    (∃ k, exec i s = checksumCommand k (encode i) s) ∨
    (∃ p, exec i s = decodeCommand (layout p) (decodeBy p) (fieldsBy p) (encode i) s) ∨
    (∃ p, exec i s = encodeCommand (layout p) (encodeBy p) i.um (encode i) s) ∨
    (∃ p q, exec i s = convertCommand p q i.um (encode i) s) := by
  cases i with
  | crc32 => exact .inl ⟨.crc32, rfl⟩
  | crc16 => exact .inl ⟨.crc16, rfl⟩
  | decAos => exact .inr (.inl ⟨.aos, rfl⟩)
  | decCcsds => exact .inr (.inl ⟨.ccsds, rfl⟩)
  | decPusTm => exact .inr (.inl ⟨.pusTm, rfl⟩)
  | decPusTc => exact .inr (.inl ⟨.pusTc, rfl⟩)
  | encAos um => cases um <;> exact .inr (.inr (.inl ⟨.aos, rfl⟩))
  | encCcsds um => cases um <;> exact .inr (.inr (.inl ⟨.ccsds, rfl⟩))
  | encPusTm um => cases um <;> exact .inr (.inr (.inl ⟨.pusTm, rfl⟩))
  | encPusTc um => cases um <;> exact .inr (.inr (.inl ⟨.pusTc, rfl⟩))
  | convAosAos um => cases um <;> exact .inr (.inr (.inr ⟨.aos, .aos, rfl⟩))
  | convAosCcsds um => cases um <;> exact .inr (.inr (.inr ⟨.aos, .ccsds, rfl⟩))
  | convAosPusTm um => cases um <;> exact .inr (.inr (.inr ⟨.aos, .pusTm, rfl⟩))
  | convAosPusTc um => cases um <;> exact .inr (.inr (.inr ⟨.aos, .pusTc, rfl⟩))
  | convCcsdsAos um => cases um <;> exact .inr (.inr (.inr ⟨.ccsds, .aos, rfl⟩))
  | convCcsdsCcsds um => cases um <;> exact .inr (.inr (.inr ⟨.ccsds, .ccsds, rfl⟩))
  | convCcsdsPusTm um => cases um <;> exact .inr (.inr (.inr ⟨.ccsds, .pusTm, rfl⟩))
  | convCcsdsPusTc um => cases um <;> exact .inr (.inr (.inr ⟨.ccsds, .pusTc, rfl⟩))
  | convPusTmAos um => cases um <;> exact .inr (.inr (.inr ⟨.pusTm, .aos, rfl⟩))
  | convPusTmCcsds um => cases um <;> exact .inr (.inr (.inr ⟨.pusTm, .ccsds, rfl⟩))
  | convPusTmPusTm um => cases um <;> exact .inr (.inr (.inr ⟨.pusTm, .pusTm, rfl⟩))
  | convPusTmPusTc um => cases um <;> exact .inr (.inr (.inr ⟨.pusTm, .pusTc, rfl⟩))
  | convPusTcAos um => cases um <;> exact .inr (.inr (.inr ⟨.pusTc, .aos, rfl⟩))
  | convPusTcCcsds um => cases um <;> exact .inr (.inr (.inr ⟨.pusTc, .ccsds, rfl⟩))
  | convPusTcPusTm um => cases um <;> exact .inr (.inr (.inr ⟨.pusTc, .pusTm, rfl⟩))
  | convPusTcPusTc um => cases um <;> exact .inr (.inr (.inr ⟨.pusTc, .pusTc, rfl⟩))

/-- What a checksum command can do when it goes on. -/
theorem checksumCommand_next {k : CrcKind} {c : Half} {s t : State} (h : checksumCommand k c s = .next t) :
    ∃ raw, s.input = some raw ∧ t = { s.drawHidden.clearResults with crcCalc := crcOf k raw }.finish c := by
  unfold checksumCommand at h
  split at h
  · cases h
  · next raw hr => exact ⟨raw, hr, by injection h with h; exact h.symm⟩

/-- What a decode command can do when it goes on. -/
theorem decodeCommand_next {l : FrameLayout} {dec : List Byte → Except DecodeError Message}
    {f : List Byte → Extracted} {c : Half} {s t : State} (h : decodeCommand l dec f c s = .next t) :
    ∃ raw, s.input = some raw ∧
      ((∃ e, dec raw = .error e ∧ t = s.drawHidden.raise e.bare c) ∨
       (∃ m, dec raw = .ok m ∧ t = (s.drawHidden.decoded l f raw m).finish c)) := by
  unfold decodeCommand at h
  split at h
  · cases h
  · next raw hr =>
    refine ⟨raw, hr, ?_⟩
    split at h
    · next e he => exact .inl ⟨e, he, by injection h with h; exact h.symm⟩
    · next m hm => exact .inr ⟨m, hm, by injection h with h; exact h.symm⟩

/-- What an encode command can do when it goes on. -/
theorem encodeCommand_next {l : FrameLayout} {enc : List Byte → Meta → List Byte} {um : Bool} {c : Half}
    {s t : State} (h : encodeCommand l enc um c s = .next t) :
    ∃ payload, s.input = some payload ∧
      t = { s.drawHidden.clearResults with
            obuf := enc payload (s.metaOf um)
            crcCalc := rcvdOf l.crcAlgorithm (trailerBytes l (enc payload (s.metaOf um))) }.finish c := by
  unfold encodeCommand at h
  split at h
  · cases h
  · next raw hr => exact ⟨raw, hr, by injection h with h; exact h.symm⟩

/-- What a conversion command can do when it goes on. -/
theorem convertCommand_next {p q : Protocol} {um : Bool} {c : Half} {s t : State}
    (h : convertCommand p q um c s = .next t) :
    ∃ raw, s.input = some raw ∧
      ((∃ e, convert p q raw (s.metaOf um) = .error e ∧ t = (s.drawUnless (p == q)).raise e c) ∨
       (∃ out, convert p q raw (s.metaOf um) = .ok out ∧
          t = { (s.drawUnless (p == q)).clearResults with obuf := out }.finish c)) := by
  unfold convertCommand at h
  split at h
  · cases h
  · next raw hr =>
    refine ⟨raw, hr, ?_⟩
    split at h
    · next e he => exact .inl ⟨e, he, by injection h with h; exact h.symm⟩
    · next out ho => exact .inr ⟨out, ho, by injection h with h; exact h.symm⟩

/-- The three outcomes of the common decode steps, each with what it means. -/
theorem decodeFrame_cases (l : FrameLayout) (raw : List Byte) :
    (raw.length < l.minimumTotalLength ∧ decodeFrame l raw = .error .tooShort) ∨
    (l.minimumTotalLength ≤ raw.length ∧
      crcOf l.crcAlgorithm (remainderOf l raw) ≠ rcvdOf l.crcAlgorithm (trailerBytes l raw) ∧
      decodeFrame l raw = .error .checksumMismatch) ∨
    (l.minimumTotalLength ≤ raw.length ∧
      crcOf l.crcAlgorithm (remainderOf l raw) = rcvdOf l.crcAlgorithm (trailerBytes l raw) ∧
      decodeFrame l raw = .ok ⟨(remainderOf l raw).take l.headerLength, (remainderOf l raw).drop l.headerLength⟩) := by
  unfold decodeFrame
  by_cases h : raw.length < l.minimumTotalLength
  · exact .inl ⟨h, by simp [h]⟩
  · by_cases hc : crcOf l.crcAlgorithm (remainderOf l raw) = rcvdOf l.crcAlgorithm (trailerBytes l raw)
    · exact .inr (.inr ⟨by omega, hc, by simp [h, hc]⟩)
    · exact .inr (.inl ⟨by omega, hc, by simp [h, hc]⟩)

/-- The remainder is the frame without its trailer. -/
@[simp] theorem remainderOf_length (l : FrameLayout) (raw : List Byte) :
    (remainderOf l raw).length = raw.length - l.crcWidth := by
  simp [remainderOf]

/-- Stripping the magic prefix drops three bytes or none (R143). -/
theorem stripMagic_cases (rest : List Byte) :
    (3 ≤ rest.length ∧ rest.take 3 = magicPrefix ∧ stripMagic rest = rest.drop 3) ∨
    (¬ (3 ≤ rest.length ∧ rest.take 3 = magicPrefix) ∧ stripMagic rest = rest) := by
  unfold stripMagic
  split
  · next h => exact .inl ⟨h.1, h.2, rfl⟩
  · next h => exact .inr ⟨h, rfl⟩

/-- What `convert` answers between two different protocols (R181, R183). -/
theorem convert_cross {p q : Protocol} (h : p ≠ q) (raw : List Byte) (m : Meta) :
    (∃ k, decodeBy p raw = .error k ∧ convert p q raw m = .error (.conversionFailed k)) ∨
    (∃ msg, decodeBy p raw = .ok msg ∧ convert p q raw m = .ok (encodeBy q msg.payload m)) := by
  unfold convert
  rw [if_neg h]
  cases hd : decodeBy p raw with
  | error k => exact .inl ⟨k, rfl, rfl⟩
  | ok msg => exact .inr ⟨msg, rfl, rfl⟩

/-- Between equal protocols `convert` answers its input (R182). -/
@[simp] theorem convert_same (p : Protocol) (raw : List Byte) (m : Meta) : convert p p raw m = .ok raw := by
  simp [convert]

end Sys2Proof.Machine
end

