-- ==== Sys2Proof/Laws/Host.lean ====
section
/-! SUPPORT. What a step and a host access can do, said once. -/

namespace Sys2Proof.Machine

/-- The `REG` map read backwards: the offset of every register leads to it (R61). -/
@[simp] theorem regAt_regOffset (r : Reg) : regAt (regOffset r) = .ok r := by cases r <;> rfl

/-- A step with nothing at the port changes nothing. -/
theorem step_idle {s : State} (h : s.port = []) : step s = .next s := by simp [step, h]

/-- A step runs the first event at the port on the state without it. -/
theorem step_event {s : State} {e : PortEvent} {rest : List PortEvent} (h : s.port = e :: rest) :
    step s = portEvent e { s with port := rest } := by simp [step, h]

/-- What an access that is a read can do when the step goes on: nothing but the reply. -/
theorem hostAccess_read_next {sp : Space} {a n : Nat} {s t : State} (h : hostAccess (.read sp a n) s = .next t) :
    ∃ v, memRead sp a n s = .ok v ∧ t = { s with replies := s.replies ++ [v] } := by
  simp only [hostAccess] at h
  split at h
  · cases h
  · next v hv => exact ⟨v, hv, by injection h with h; exact h.symm⟩

/-- The write of a command word: the two rejections, or the command (R97). -/
theorem writeCmd_cases (w : Word) (s : State) :
    (decode w = .error .illegalCommand ∧ writeCmd w s = .next (s.raise .illegalCommand (commandOf w))) ∨
    (decode w = .error .formatUnknown ∧ writeCmd w s = .next (s.raise .formatUnknown (commandOf w))) ∨
    (∃ i, decode w = .ok i ∧ writeCmd w s = exec i s) := by
  unfold writeCmd
  cases hd : decode w with
  | error e => cases e <;> simp
  | ok i => exact .inr (.inr ⟨i, rfl, rfl⟩)

/-- What a write of a register can do when the step goes on: run a command, set `ILEN`, set one `M_*` register, or
nothing at all (R64). -/
theorem writeReg_next {r : Reg} {v : Word} {s t : State} (h : writeReg r v s = .next t) :
    (r = .cmd ∧ writeCmd v s = .next t) ∨
    (r = .ilen ∧ v.toNat ≤ s.cap ∧ t = { s with ilen := v.toNat }) ∨
    (r ≠ .cmd ∧ r ≠ .ilen ∧ ∃ m, t = { s with m := m }) := by
  cases r with
  | cmd => exact .inl ⟨rfl, h⟩
  | ilen =>
    refine .inr (.inl ⟨rfl, ?_⟩)
    simp only [writeReg, writeIlen] at h
    split at h
    · next hv => exact ⟨hv, by injection h with h; exact h.symm⟩
    · cases h
  | _ => exact .inr (.inr ⟨by decide, by decide, _, by injection h with h; exact h.symm⟩)

/-- What an access that is a write can do when the step goes on: write a register, or one cell of `IBUF`. -/
theorem memWrite_next {sp : Space} {a n : Nat} {v : Word} {s t : State} (h : memWrite sp a n v s = .next t) :
    (∃ r, sp = .reg ∧ n = 4 ∧ regAt a = .ok r ∧ writeReg r v s = .next t) ∨
    (sp = .ibuf ∧ n = 1 ∧ a < s.cap ∧ t = { s with ibuf := s.ibuf.write a (v.setWidth 8) }) := by
  cases sp with
  | reg =>
    simp only [memWrite] at h
    split at h
    · next hn =>
      split at h
      · cases h
      · next r hr => exact .inl ⟨r, rfl, hn, hr, h⟩
    · cases h
  | ibuf =>
    simp only [memWrite, writeIbuf] at h
    split at h
    · next hn =>
      split at h
      · next ha => exact .inr ⟨rfl, hn, ha, by injection h with h; exact h.symm⟩
      · cases h
    · cases h
  | obuf => cases h
  | hbuf => cases h

/-- A port with nothing left to do is worked off. -/
theorem runPort_idle {s : State} (h : s.port = []) : runPort s = .next s := by
  simp only [runPort, h, List.length_nil, Host.Core.run]
  rfl

/-- Working off a port whose first event goes on is working off the rest of it from there. -/
theorem runPort_event {s t : State} {e : PortEvent} {rest : List PortEvent} (h : s.port = e :: rest)
    (hs : step s = .next t) (ht : t.port = rest) : runPort s = runPort t := by
  have hc : Sys2Proof.core.step s = .next t := hs
  simp only [runPort, h, ht, List.length_cons, Host.Core.run, hc]
  rfl

/-- `WR M_<NAME>, v` assigns the named register alone (R30, R112). -/
@[simp] theorem writeReg_metaReg (n : MetaName) (v : Word) (s : State) :
    writeReg (metaReg n) v s = .next { s with m := metaAssign s.m (n, v) } := by
  have h16 : v.setWidth 16 = v.extractLsb' 0 16 := BitVec.eq_of_toNat_eq (by simp [BitVec.extractLsb'_toNat])
  have h8 : v.setWidth 8 = v.extractLsb' 0 8 := BitVec.eq_of_toNat_eq (by simp [BitVec.extractLsb'_toNat])
  cases n <;> simp only [writeReg, metaReg, metaAssign, h16, h8]

/-- A length that fits a register word is that word. -/
theorem lengthWord_of_lt {n : Nat} (h : n < 2 ^ 32) : lengthWord n = BitVec.ofNat 32 n := if_pos h

end Sys2Proof.Machine
end

