-- ==== Sys2Proof/Laws/PerInstr.lean ====
section
/-! SUPPORT. A statement for every command, one lemma per constructor: the word of the command selects the command's own
row of R98. -/

namespace Sys2Proof.Laws.OpcodeRow

/-- The command word of `i` selects the row of `i` in the opcode map, `c & mask = match` (R98), and its other bit, where
the mask leaves one free, is `UM`. -/
def Statement (i : Instr) : Prop :=
  encode i &&& opcodeMask i = opcodeMatch i ∧
    encode i &&& ~~~ opcodeMask i = if i.um then 0x0100 else 0x0000

theorem crc32 : Statement .crc32 := ⟨by decide, by decide⟩

theorem crc16 : Statement .crc16 := ⟨by decide, by decide⟩

theorem decAos : Statement .decAos := ⟨by decide, by decide⟩

theorem decCcsds : Statement .decCcsds := ⟨by decide, by decide⟩

theorem decPusTm : Statement .decPusTm := ⟨by decide, by decide⟩

theorem decPusTc : Statement .decPusTc := ⟨by decide, by decide⟩

theorem encAos (um : Bool) : Statement (.encAos um) := by cases um <;> exact ⟨by decide, by decide⟩

theorem encCcsds (um : Bool) : Statement (.encCcsds um) := by cases um <;> exact ⟨by decide, by decide⟩

theorem encPusTm (um : Bool) : Statement (.encPusTm um) := by cases um <;> exact ⟨by decide, by decide⟩

theorem encPusTc (um : Bool) : Statement (.encPusTc um) := by cases um <;> exact ⟨by decide, by decide⟩

theorem convAosAos (um : Bool) : Statement (.convAosAos um) := by cases um <;> exact ⟨by decide, by decide⟩

theorem convAosCcsds (um : Bool) : Statement (.convAosCcsds um) := by cases um <;> exact ⟨by decide, by decide⟩

theorem convAosPusTm (um : Bool) : Statement (.convAosPusTm um) := by cases um <;> exact ⟨by decide, by decide⟩

theorem convAosPusTc (um : Bool) : Statement (.convAosPusTc um) := by cases um <;> exact ⟨by decide, by decide⟩

theorem convCcsdsAos (um : Bool) : Statement (.convCcsdsAos um) := by cases um <;> exact ⟨by decide, by decide⟩

theorem convCcsdsCcsds (um : Bool) : Statement (.convCcsdsCcsds um) := by cases um <;> exact ⟨by decide, by decide⟩

theorem convCcsdsPusTm (um : Bool) : Statement (.convCcsdsPusTm um) := by cases um <;> exact ⟨by decide, by decide⟩

theorem convCcsdsPusTc (um : Bool) : Statement (.convCcsdsPusTc um) := by cases um <;> exact ⟨by decide, by decide⟩

theorem convPusTmAos (um : Bool) : Statement (.convPusTmAos um) := by cases um <;> exact ⟨by decide, by decide⟩

theorem convPusTmCcsds (um : Bool) : Statement (.convPusTmCcsds um) := by cases um <;> exact ⟨by decide, by decide⟩

theorem convPusTmPusTm (um : Bool) : Statement (.convPusTmPusTm um) := by cases um <;> exact ⟨by decide, by decide⟩

theorem convPusTmPusTc (um : Bool) : Statement (.convPusTmPusTc um) := by cases um <;> exact ⟨by decide, by decide⟩

theorem convPusTcAos (um : Bool) : Statement (.convPusTcAos um) := by cases um <;> exact ⟨by decide, by decide⟩

theorem convPusTcCcsds (um : Bool) : Statement (.convPusTcCcsds um) := by cases um <;> exact ⟨by decide, by decide⟩

theorem convPusTcPusTm (um : Bool) : Statement (.convPusTcPusTm um) := by cases um <;> exact ⟨by decide, by decide⟩

theorem convPusTcPusTc (um : Bool) : Statement (.convPusTcPusTc um) := by cases um <;> exact ⟨by decide, by decide⟩

end Sys2Proof.Laws.OpcodeRow
end

