-- ==== Sys2Proof/Tests/Slice0.lean ====
section
/-! SUPPORT. Tests by the kernel's evaluation. The expected values are those of spec/95_test_vectors.md (the vector is
named at each test) or are worked out from the cited rule by hand. The last part shows, for every obligation that has
hypotheses, a concrete state and operands that meet them all (theorems `witness_<obligation>`). -/

namespace Sys2Proof.Tests

-- one theorem after the other: checked side by side, these evaluations need some fifty threads at once
set_option Elab.async false

open Sys2Proof Sys2Proof.Machine

/-! ### Helpers -/

/-- The cells of a buffer whose cells from `k` on hold the given bytes. -/
def cellsFrom : Nat → List Byte → Memory
  | _, [] => []
  | k, b :: bs => (k, b) :: cellsFrom (k + 1) bs

/-- A block of capacity 64 with the given input and nothing else. -/
def block (bs : List Byte) : State := { State.reset with cap := 64, ilen := bs.length, ibuf := cellsFrom 0 bs }

/-- The metadata of the primed frames of spec/95_test_vectors.md. -/
def sampleMeta : Meta := ⟨0x1234, 0x56, 0x03, 0x19, 0x01, 0x2A, 0xBEEF⟩

/-- The same block with that metadata. -/
def blockM (bs : List Byte) : State := { block bs with m := sampleMeta }

/-- A block with results in it: what `DEC.AOS` leaves of `frameA'`. -/
def used : State :=
  { block [0x41, 0x42] with
    cmd := 0x3000, status := 0x100, obuf := [0x41, 0x42], hbuf := [0x12, 0x34, 0x56],
    x := { Extracted.zero with scid := 0x1234, vcid := 0x56 }, crcCalc := 0xBACA50F3, crcRcvd := 0xBACA50F3 }

/-- The state with one access waiting at the port. -/
def doing (s : State) (a : Access) : State := { s with port := [.access a] }

/-- The results of an outcome that goes on. -/
def resultsOf : Host.Outcome State Fault Refusal → Option Results
  | .next s => some s.results
  | _ => none

/-- The refusal of an outcome that is one. -/
def refusalOf : Host.Outcome State Fault Refusal → Option Refusal
  | .refused r => some r
  | _ => none

/-- `STATUS` and `OBUF` after an outcome that goes on. -/
def outOf : Host.Outcome State Fault Refusal → Option (BitVec 9 × List Byte)
  | .next s => some (s.status, s.obuf)
  | _ => none

/-- The host's replies after an outcome that goes on. -/
def repliesOf : Host.Outcome State Fault Refusal → Option (List Word)
  | .next s => some s.replies
  | _ => none

/-- What an accepted word selects. -/
def decodedTo (w : Word) : Option Instr :=
  match decode w with
  | .ok i => some i
  | .error _ => none

/-- Why a rejected word is rejected. -/
def rejectedAs (w : Word) : Option Reject :=
  match decode w with
  | .ok _ => none
  | .error e => some e

/-! ### Frames of spec/95_test_vectors.md -/

/-- `A` -/
def frameA : List Byte := [0x00, 0x00, 0x00, 0x41, 0x42, 0xB7, 0x92, 0xA9, 0xE5]
/-- `C` -/
def frameC : List Byte :=
  [0x00, 0x00, 0x00, 0x00, 0x00, 0x00, 0x00, 0x00, 0x08, 0x41, 0x42, 0x14, 0x24, 0xBE, 0xAC]
/-- `M` -/
def frameM : List Byte := zeros 12 ++ [0x41, 0x42, 0xFF, 0x11]
/-- `K` -/
def frameK : List Byte := zeros 10 ++ [0x41, 0x42, 0xD2, 0x82]
/-- `A'` -/
def frameA' : List Byte := [0x12, 0x34, 0x56, 0x41, 0x42, 0xBA, 0xCA, 0x50, 0xF3]
/-- `C'` -/
def frameC' : List Byte :=
  [0x00, 0x01, 0x00, 0x00, 0xBE, 0xEF, 0x2A, 0x00, 0x08, 0x41, 0x42, 0xE7, 0xCF, 0x7F, 0x9D]
/-- `M'` -/
def frameM' : List Byte :=
  [0x00, 0x00, 0x00, 0x00, 0x00, 0x00, 0x03, 0x19, 0x00, 0x00, 0x00, 0x00, 0x41, 0x42, 0x2B, 0xD3]
/-- `K'` -/
def frameK' : List Byte :=
  [0x03, 0x19, 0x00, 0x00, 0x00, 0x00, 0x00, 0x00, 0x00, 0x00, 0x41, 0x42, 0xF8, 0xE7]
/-- the smallest frame of each protocol (V-AOS-13, V-CCSDS-4, V-TM-4, V-TC-4) -/
def least : Protocol → List Byte
  | .aos => [0x00, 0x00, 0x00, 0xFF, 0x41, 0xD9, 0x12]
  | .ccsds => zeros 8 ++ [0x06, 0x0F, 0x6A, 0xB1, 0x9B]
  | .pusTm => zeros 12 ++ [0x84, 0xF9]
  | .pusTc => zeros 10 ++ [0xE1, 0x39]

/-! ### WellFormed: one ill-formed access for each check -/

theorem smoke_wrong_size_reg : (Access.read .reg 0x00 1).wellFormed = false := by decide
theorem smoke_wrong_size_buffer : (Access.write .ibuf 0 4 0).wellFormed = false := by decide
theorem smoke_unaligned_offset : (Access.read .reg 0x02 4).wellFormed = false := by decide
theorem smoke_reserved_offset : (Access.write .reg 0x1C 4 0).wellFormed = false := by decide
theorem smoke_second_reserved_offset : (Access.read .reg 0x3C 4).wellFormed = false := by decide
theorem smoke_offset_above_map : (Access.read .reg 0x60 4).wellFormed = false := by decide
theorem smoke_result_buffer_write : (Access.write .obuf 0 1 0).wellFormed = false := by decide
theorem smoke_header_buffer_write : (Access.write .hbuf 0 1 0).wellFormed = false := by decide
theorem smoke_good_accesses : (Access.write .reg 0x5C 4 0).wellFormed = true ∧ (Access.read .hbuf 11 1).wellFormed = true :=
  by decide

/-! ### Decode: every command's word written out bit by bit from R90 to R92 and R98
(`OP` 4 bits, `RSV` 3 bits, `UM`, `SRC` 4 bits, `TGT` 4 bits, below 16 zero bits), and its encoding -/

theorem decode_crc32 : decodedTo 0b00000000000000000001000000000000 = some .crc32 ∧ encode .crc32 = 0x1000 := by decide
theorem decode_crc16 : decodedTo 0b00000000000000000010000000000000 = some .crc16 ∧ encode .crc16 = 0x2000 := by decide
theorem decode_decAos : decodedTo 0b00000000000000000011000000000000 = some .decAos ∧ encode .decAos = 0x3000 := by decide
theorem decode_decCcsds : decodedTo 0b00000000000000000011000000010000 = some .decCcsds ∧ encode .decCcsds = 0x3010 := by decide
theorem decode_decPusTm : decodedTo 0b00000000000000000011000000100000 = some .decPusTm ∧ encode .decPusTm = 0x3020 := by decide
theorem decode_decPusTc : decodedTo 0b00000000000000000011000000110000 = some .decPusTc ∧ encode .decPusTc = 0x3030 := by decide
theorem decode_encAos : decodedTo 0b00000000000000000100000000000000 = some (.encAos false) ∧ decodedTo 0b00000000000000000100000100000000 = some (.encAos true) ∧
    encode (.encAos false) = 0x4000 ∧ encode (.encAos true) = 0x4100 := by decide
theorem decode_encCcsds : decodedTo 0b00000000000000000100000000000001 = some (.encCcsds false) ∧ decodedTo 0b00000000000000000100000100000001 = some (.encCcsds true) ∧
    encode (.encCcsds false) = 0x4001 ∧ encode (.encCcsds true) = 0x4101 := by decide
theorem decode_encPusTm : decodedTo 0b00000000000000000100000000000010 = some (.encPusTm false) ∧ decodedTo 0b00000000000000000100000100000010 = some (.encPusTm true) ∧
    encode (.encPusTm false) = 0x4002 ∧ encode (.encPusTm true) = 0x4102 := by decide
theorem decode_encPusTc : decodedTo 0b00000000000000000100000000000011 = some (.encPusTc false) ∧ decodedTo 0b00000000000000000100000100000011 = some (.encPusTc true) ∧
    encode (.encPusTc false) = 0x4003 ∧ encode (.encPusTc true) = 0x4103 := by decide
theorem decode_convAosAos : decodedTo 0b00000000000000000101000000000000 = some (.convAosAos false) ∧ decodedTo 0b00000000000000000101000100000000 = some (.convAosAos true) ∧
    encode (.convAosAos false) = 0x5000 ∧ encode (.convAosAos true) = 0x5100 := by decide
theorem decode_convAosCcsds : decodedTo 0b00000000000000000101000000000001 = some (.convAosCcsds false) ∧ decodedTo 0b00000000000000000101000100000001 = some (.convAosCcsds true) ∧
    encode (.convAosCcsds false) = 0x5001 ∧ encode (.convAosCcsds true) = 0x5101 := by decide
theorem decode_convAosPusTm : decodedTo 0b00000000000000000101000000000010 = some (.convAosPusTm false) ∧ decodedTo 0b00000000000000000101000100000010 = some (.convAosPusTm true) ∧
    encode (.convAosPusTm false) = 0x5002 ∧ encode (.convAosPusTm true) = 0x5102 := by decide
theorem decode_convAosPusTc : decodedTo 0b00000000000000000101000000000011 = some (.convAosPusTc false) ∧ decodedTo 0b00000000000000000101000100000011 = some (.convAosPusTc true) ∧
    encode (.convAosPusTc false) = 0x5003 ∧ encode (.convAosPusTc true) = 0x5103 := by decide
theorem decode_convCcsdsAos : decodedTo 0b00000000000000000101000000010000 = some (.convCcsdsAos false) ∧ decodedTo 0b00000000000000000101000100010000 = some (.convCcsdsAos true) ∧
    encode (.convCcsdsAos false) = 0x5010 ∧ encode (.convCcsdsAos true) = 0x5110 := by decide
theorem decode_convCcsdsCcsds : decodedTo 0b00000000000000000101000000010001 = some (.convCcsdsCcsds false) ∧ decodedTo 0b00000000000000000101000100010001 = some (.convCcsdsCcsds true) ∧
    encode (.convCcsdsCcsds false) = 0x5011 ∧ encode (.convCcsdsCcsds true) = 0x5111 := by decide
theorem decode_convCcsdsPusTm : decodedTo 0b00000000000000000101000000010010 = some (.convCcsdsPusTm false) ∧ decodedTo 0b00000000000000000101000100010010 = some (.convCcsdsPusTm true) ∧
    encode (.convCcsdsPusTm false) = 0x5012 ∧ encode (.convCcsdsPusTm true) = 0x5112 := by decide
theorem decode_convCcsdsPusTc : decodedTo 0b00000000000000000101000000010011 = some (.convCcsdsPusTc false) ∧ decodedTo 0b00000000000000000101000100010011 = some (.convCcsdsPusTc true) ∧
    encode (.convCcsdsPusTc false) = 0x5013 ∧ encode (.convCcsdsPusTc true) = 0x5113 := by decide
theorem decode_convPusTmAos : decodedTo 0b00000000000000000101000000100000 = some (.convPusTmAos false) ∧ decodedTo 0b00000000000000000101000100100000 = some (.convPusTmAos true) ∧
    encode (.convPusTmAos false) = 0x5020 ∧ encode (.convPusTmAos true) = 0x5120 := by decide
theorem decode_convPusTmCcsds : decodedTo 0b00000000000000000101000000100001 = some (.convPusTmCcsds false) ∧ decodedTo 0b00000000000000000101000100100001 = some (.convPusTmCcsds true) ∧
    encode (.convPusTmCcsds false) = 0x5021 ∧ encode (.convPusTmCcsds true) = 0x5121 := by decide
theorem decode_convPusTmPusTm : decodedTo 0b00000000000000000101000000100010 = some (.convPusTmPusTm false) ∧ decodedTo 0b00000000000000000101000100100010 = some (.convPusTmPusTm true) ∧
    encode (.convPusTmPusTm false) = 0x5022 ∧ encode (.convPusTmPusTm true) = 0x5122 := by decide
theorem decode_convPusTmPusTc : decodedTo 0b00000000000000000101000000100011 = some (.convPusTmPusTc false) ∧ decodedTo 0b00000000000000000101000100100011 = some (.convPusTmPusTc true) ∧
    encode (.convPusTmPusTc false) = 0x5023 ∧ encode (.convPusTmPusTc true) = 0x5123 := by decide
theorem decode_convPusTcAos : decodedTo 0b00000000000000000101000000110000 = some (.convPusTcAos false) ∧ decodedTo 0b00000000000000000101000100110000 = some (.convPusTcAos true) ∧
    encode (.convPusTcAos false) = 0x5030 ∧ encode (.convPusTcAos true) = 0x5130 := by decide
theorem decode_convPusTcCcsds : decodedTo 0b00000000000000000101000000110001 = some (.convPusTcCcsds false) ∧ decodedTo 0b00000000000000000101000100110001 = some (.convPusTcCcsds true) ∧
    encode (.convPusTcCcsds false) = 0x5031 ∧ encode (.convPusTcCcsds true) = 0x5131 := by decide
theorem decode_convPusTcPusTm : decodedTo 0b00000000000000000101000000110010 = some (.convPusTcPusTm false) ∧ decodedTo 0b00000000000000000101000100110010 = some (.convPusTcPusTm true) ∧
    encode (.convPusTcPusTm false) = 0x5032 ∧ encode (.convPusTcPusTm true) = 0x5132 := by decide
theorem decode_convPusTcPusTc : decodedTo 0b00000000000000000101000000110011 = some (.convPusTcPusTc false) ∧ decodedTo 0b00000000000000000101000100110011 = some (.convPusTcPusTc true) ∧
    encode (.convPusTcPusTc false) = 0x5033 ∧ encode (.convPusTcPusTc true) = 0x5133 := by decide

/-- V-CMD-1 to V-CMD-6, 9, 10, 17 to 22: the words that are illegal. -/
theorem decode_illegal : ([0x00000000, 0x00001001, 0x00001100, 0x00002010, 0x00003001, 0x00003100, 0x00004010, 0x00004040,
    0x00005200, 0x00005800, 0x00006000, 0x0000FFFF, 0x00011000, 0x00013040] : List Word).all
    (fun w => rejectedAs w == some .illegalCommand) = true := by decide

/-- V-CMD-7, 8, 11 to 16: the legal words with an unknown tag. -/
theorem decode_unknown_tag : ([0x00003040, 0x000030F0, 0x00004004, 0x0000410F, 0x00005044, 0x00005099, 0x00005004,
    0x00005140] : List Word).all (fun w => rejectedAs w == some .formatUnknown) = true := by decide

/-! ### The generators and each command -/

/-- V-CRC-8, V-CRC-16. -/
theorem test_crc32_check_string :
    crc32Ieee [0x31, 0x32, 0x33, 0x34, 0x35, 0x36, 0x37, 0x38, 0x39] = 0xCBF43926 ∧ crc32Table 1 = 0x77073096 ∧
      crc32Table 255 = 0x2D02EF8D := by decide +kernel

/-- V-CRC-8, V-CRC-15, V-CRC-16. -/
theorem test_crc16_check_string :
    crc16Ccitt [0x31, 0x32, 0x33, 0x34, 0x35, 0x36, 0x37, 0x38, 0x39] = 0x29B1 ∧
      crc16Ccitt [0x41, 0x42, 0x4B, 0x74] = 0x0000 ∧ crc16Table 128 = 0x9188 ∧ crc16Table 255 = 0x1EF0 := by
  decide +kernel

/-- V-CRC-6, on a block that holds results. -/
theorem test_crc32 : resultsOf (exec .crc32 used) = some ⟨0x1000, 0x100, [], [], Extracted.zero, 0x30694C07, 0⟩ := by
  decide +kernel

/-- V-CRC-6. -/
theorem test_crc16 : resultsOf (exec .crc16 used) = some ⟨0x2000, 0x100, [], [], Extracted.zero, 0x00004B74, 0⟩ := by
  decide +kernel

/-- V-AOS-12: prefix stripped once, header of the same bytes kept. -/
theorem test_decAos :
    resultsOf (exec .decAos (block [0x00, 0x7B, 0x7C, 0x00, 0x7B, 0x7C, 0x41, 0x42, 0x67, 0xC8, 0x7E, 0x53])) =
      some ⟨0x3000, 0x100, [0x41, 0x42], [0x00, 0x7B, 0x7C], { Extracted.zero with scid := 0x007B, vcid := 0x7C },
        0x67C87E53, 0x67C87E53⟩ := by decide +kernel

/-- V-AOS-7, V-AOS-10: two prefix bytes only, and a prefix that is the header, strip nothing. -/
theorem test_decAos_keeps :
    outOf (exec .decAos (block [0x00, 0x00, 0x00, 0x00, 0x7B, 0x01, 0xF5, 0x5F, 0xA9])) = some (0x100, [0x00, 0x7B]) ∧
    outOf (exec .decAos (block [0x00, 0x7B, 0x7C, 0xDE, 0xAD, 0xBE, 0xEF, 0x9D, 0x73, 0x53, 0xF4])) =
      some (0x100, [0xDE, 0xAD, 0xBE, 0xEF]) := by decide +kernel

/-- V-CCSDS-3: `packetLength` is reported and not validated. -/
theorem test_decCcsds :
    resultsOf (exec .decCcsds (block [0xAA, 0x01, 0xBB, 0xCC, 0x12, 0x34, 0x2A, 0xFF, 0xFE, 0x01, 0x02, 0x03, 0xC2, 0xDA,
      0xAB, 0x14])) =
      some ⟨0x3010, 0x100, [0x01, 0x02, 0x03], [0xAA, 0x01, 0xBB, 0xCC, 0x12, 0x34, 0x2A, 0xFF, 0xFE],
        { Extracted.zero with ptype := 0x01, apid := 0x2A, plen := 0xFFFE }, 0xC2DAAB14, 0xC2DAAB14⟩ := by
  decide +kernel

/-- V-X-2: an AOS frame under the CCSDS decoder. -/
theorem test_decCcsds_of_aos :
    outOf (exec .decCcsds (block [0x12, 0x34, 0x56, 0x01, 0x02, 0x03, 0x04, 0x05, 0x06, 0x07, 0x08, 0xA7, 0xA5, 0x81,
      0xF4])) = some (0x100, [0x07, 0x08]) := by decide +kernel

/-- V-TM-3. -/
theorem test_decPusTm :
    resultsOf (exec .decPusTm (block [0x00, 0x00, 0x99, 0x00, 0x00, 0x00, 0x05, 0x06, 0x00, 0x00, 0x00, 0x77, 0x10, 0x20,
      0xBF, 0x54])) =
      some ⟨0x3020, 0x100, [0x10, 0x20], [0x00, 0x00, 0x99, 0x00, 0x00, 0x00, 0x05, 0x06, 0x00, 0x00, 0x00, 0x77],
        { Extracted.zero with svc := 0x05, subsvc := 0x06, tsmark := 0x99 }, 0xBF54, 0xBF54⟩ := by decide +kernel

/-- V-TM-6, V-X-1b. -/
theorem test_decPusTm_other_frames :
    resultsOf (exec .decPusTm (block (zeros 12 ++ [0x41, 0x42, 0xFF, 0x10]))) = some (.error 0x3020 0x103) ∧
    outOf (exec .decPusTm (block frameK)) = some (0x100, []) := by decide +kernel

/-- V-TC-3. -/
theorem test_decPusTc :
    resultsOf (exec .decPusTc (block [0x11, 0x01, 0x01, 0x02, 0x03, 0x04, 0x05, 0x06, 0x07, 0x08, 0xCA, 0xFE, 0x49,
      0x42])) =
      some ⟨0x3030, 0x100, [0xCA, 0xFE], [0x11, 0x01, 0x01, 0x02, 0x03, 0x04, 0x05, 0x06, 0x07, 0x08],
        { Extracted.zero with svc := 0x11, subsvc := 0x01 }, 0x4942, 0x4942⟩ := by decide +kernel

/-- V-TC-6: a reserved byte is covered by the checksum. -/
theorem test_decPusTc_reserved_byte :
    resultsOf (exec .decPusTc (block [0x00, 0x00, 0x00, 0x00, 0x00, 0x10, 0x00, 0x00, 0x00, 0x00, 0x41, 0x42, 0xD2,
      0x82])) = some (.error 0x3030 0x103) := by decide +kernel

/-- V-AOS-1, V-AOS-2, V-AOS-17: without `UM` the registers are not read. -/
theorem test_encAos :
    outOf (exec (.encAos false) (blockM [0x41, 0x42])) = some (0x100, frameA) ∧
    resultsOf (exec (.encAos true) (blockM [0x41, 0x42])) =
      some ⟨0x4100, 0x100, frameA', [], Extracted.zero, 0xBACA50F3, 0⟩ := by decide +kernel

/-- V-CCSDS-1, V-CCSDS-2: without `UM` the registers are not read. -/
theorem test_encCcsds :
    outOf (exec (.encCcsds false) (blockM [0x41, 0x42])) = some (0x100, frameC) ∧
    resultsOf (exec (.encCcsds true) (blockM [0x41, 0x42])) =
      some ⟨0x4101, 0x100, frameC', [], Extracted.zero, 0xE7CF7F9D, 0⟩ := by decide +kernel

/-- V-TM-1, V-TM-2: without `UM` the registers are not read. -/
theorem test_encPusTm :
    outOf (exec (.encPusTm false) (blockM [0x41, 0x42])) = some (0x100, frameM) ∧
    resultsOf (exec (.encPusTm true) (blockM [0x41, 0x42])) =
      some ⟨0x4102, 0x100, frameM', [], Extracted.zero, 0x2BD3, 0⟩ := by decide +kernel

/-- V-TC-1, V-TC-2: without `UM` the registers are not read. -/
theorem test_encPusTc :
    outOf (exec (.encPusTc false) (blockM [0x41, 0x42])) = some (0x100, frameK) ∧
    resultsOf (exec (.encPusTc true) (blockM [0x41, 0x42])) =
      some ⟨0x4103, 0x100, frameK', [], Extracted.zero, 0xF8E7, 0⟩ := by decide +kernel

/-- V-CCSDS-11: `packetLength` wraps modulo 65536. -/
theorem test_packet_length_wraps :
    [65529, 65530, 65535].map (fun n : Nat => be16 (encodedFields Meta.zero n .ccsds).plen) =
      [[0xFF, 0xFF], [0x00, 0x00], [0x00, 0x05]] := by decide +kernel

/-- V-CONV-1 (diagonal), R182: any bytes pass, good frame or not, whatever `UM`. -/
theorem test_convAosAos :
    resultsOf (exec (.convAosAos true) (blockM frameA)) = some (.output 0x5100 frameA) ∧
    outOf (exec (.convAosAos false) (block [0x00, 0x00])) = some (0x100, [0x00, 0x00]) := by decide +kernel

/-- V-CONV-1 (`CONV.Aos.Ccsds`), and with `UM` the primed frame of the target (R181). -/
theorem test_convAosCcsds :
    resultsOf (exec (.convAosCcsds false) (blockM frameA)) = some (.output 0x5001 frameC) ∧
    outOf (exec (.convAosCcsds true) (blockM frameA)) = some (0x100, frameC') := by decide +kernel

/-- V-CONV-1 (`CONV.Aos.PusTm`), and with `UM` the primed frame of the target (R181). -/
theorem test_convAosPusTm :
    resultsOf (exec (.convAosPusTm false) (blockM frameA)) = some (.output 0x5002 frameM) ∧
    outOf (exec (.convAosPusTm true) (blockM frameA)) = some (0x100, frameM') := by decide +kernel

/-- V-CONV-1 (`CONV.Aos.PusTc`), and with `UM` the primed frame of the target (R181). -/
theorem test_convAosPusTc :
    resultsOf (exec (.convAosPusTc false) (blockM frameA)) = some (.output 0x5003 frameK) ∧
    outOf (exec (.convAosPusTc true) (blockM frameA)) = some (0x100, frameK') := by decide +kernel

/-- V-CONV-1 (`CONV.Ccsds.Aos`), and with `UM` the primed frame of the target (R181). -/
theorem test_convCcsdsAos :
    resultsOf (exec (.convCcsdsAos false) (blockM frameC)) = some (.output 0x5010 frameA) ∧
    outOf (exec (.convCcsdsAos true) (blockM frameC)) = some (0x100, frameA') := by decide +kernel

/-- V-CONV-1 (diagonal), R182: any bytes pass, good frame or not, whatever `UM`. -/
theorem test_convCcsdsCcsds :
    resultsOf (exec (.convCcsdsCcsds true) (blockM frameC)) = some (.output 0x5111 frameC) ∧
    outOf (exec (.convCcsdsCcsds false) (block [0x00, 0x00])) = some (0x100, [0x00, 0x00]) := by decide +kernel

/-- V-CONV-1 (`CONV.Ccsds.PusTm`), and with `UM` the primed frame of the target (R181). -/
theorem test_convCcsdsPusTm :
    resultsOf (exec (.convCcsdsPusTm false) (blockM frameC)) = some (.output 0x5012 frameM) ∧
    outOf (exec (.convCcsdsPusTm true) (blockM frameC)) = some (0x100, frameM') := by decide +kernel

/-- V-CONV-1 (`CONV.Ccsds.PusTc`), and with `UM` the primed frame of the target (R181). -/
theorem test_convCcsdsPusTc :
    resultsOf (exec (.convCcsdsPusTc false) (blockM frameC)) = some (.output 0x5013 frameK) ∧
    outOf (exec (.convCcsdsPusTc true) (blockM frameC)) = some (0x100, frameK') := by decide +kernel

/-- V-CONV-1 (`CONV.PusTm.Aos`), and with `UM` the primed frame of the target (R181). -/
theorem test_convPusTmAos :
    resultsOf (exec (.convPusTmAos false) (blockM frameM)) = some (.output 0x5020 frameA) ∧
    outOf (exec (.convPusTmAos true) (blockM frameM)) = some (0x100, frameA') := by decide +kernel

/-- V-CONV-1 (`CONV.PusTm.Ccsds`), and with `UM` the primed frame of the target (R181). -/
theorem test_convPusTmCcsds :
    resultsOf (exec (.convPusTmCcsds false) (blockM frameM)) = some (.output 0x5021 frameC) ∧
    outOf (exec (.convPusTmCcsds true) (blockM frameM)) = some (0x100, frameC') := by decide +kernel

/-- V-CONV-1 (diagonal), R182: any bytes pass, good frame or not, whatever `UM`. -/
theorem test_convPusTmPusTm :
    resultsOf (exec (.convPusTmPusTm true) (blockM frameM)) = some (.output 0x5122 frameM) ∧
    outOf (exec (.convPusTmPusTm false) (block [0x00, 0x00])) = some (0x100, [0x00, 0x00]) := by decide +kernel

/-- V-CONV-1 (`CONV.PusTm.PusTc`), and with `UM` the primed frame of the target (R181). -/
theorem test_convPusTmPusTc :
    resultsOf (exec (.convPusTmPusTc false) (blockM frameM)) = some (.output 0x5023 frameK) ∧
    outOf (exec (.convPusTmPusTc true) (blockM frameM)) = some (0x100, frameK') := by decide +kernel

/-- V-CONV-1 (`CONV.PusTc.Aos`), and with `UM` the primed frame of the target (R181). -/
theorem test_convPusTcAos :
    resultsOf (exec (.convPusTcAos false) (blockM frameK)) = some (.output 0x5030 frameA) ∧
    outOf (exec (.convPusTcAos true) (blockM frameK)) = some (0x100, frameA') := by decide +kernel

/-- V-CONV-1 (`CONV.PusTc.Ccsds`), and with `UM` the primed frame of the target (R181). -/
theorem test_convPusTcCcsds :
    resultsOf (exec (.convPusTcCcsds false) (blockM frameK)) = some (.output 0x5031 frameC) ∧
    outOf (exec (.convPusTcCcsds true) (blockM frameK)) = some (0x100, frameC') := by decide +kernel

/-- V-CONV-1 (`CONV.PusTc.PusTm`), and with `UM` the primed frame of the target (R181). -/
theorem test_convPusTcPusTm :
    resultsOf (exec (.convPusTcPusTm false) (blockM frameK)) = some (.output 0x5032 frameM) ∧
    outOf (exec (.convPusTcPusTm true) (blockM frameK)) = some (0x100, frameM') := by decide +kernel

/-- V-CONV-1 (diagonal), R182: any bytes pass, good frame or not, whatever `UM`. -/
theorem test_convPusTcPusTc :
    resultsOf (exec (.convPusTcPusTc true) (blockM frameK)) = some (.output 0x5133 frameK) ∧
    outOf (exec (.convPusTcPusTc false) (block [0x00, 0x00])) = some (0x100, [0x00, 0x00]) := by decide +kernel

/-- V-CONV-8: the prefix of an AOS payload is gone. -/
theorem test_conv_strips_magic :
    outOf (exec (.convAosCcsds false) (block [0x00, 0x00, 0x00, 0x00, 0x7B, 0x7C, 0x41, 0x42, 0xF5, 0x47, 0x37, 0x38])) =
      some (0x100, frameC) := by decide +kernel

/-- V-CONV-11 to V-CONV-15: the wrapped failures, at the last length too short and the first long enough. -/
theorem test_conv_failures :
    outOf (exec (.convAosCcsds false) (block (zeros 6))) = some (0x124, []) ∧
    outOf (exec (.convAosCcsds false) (block (zeros 7))) = some (0x134, []) ∧
    outOf (exec (.convCcsdsAos false) (block (zeros 12))) = some (0x124, []) ∧
    outOf (exec (.convCcsdsAos false) (block (zeros 13))) = some (0x134, []) ∧
    outOf (exec (.convPusTmPusTc false) (block (zeros 13))) = some (0x124, []) ∧
    outOf (exec (.convPusTmPusTc false) (block (zeros 14))) = some (0x134, []) ∧
    outOf (exec (.convPusTcPusTm false) (block (zeros 11))) = some (0x124, []) ∧
    outOf (exec (.convPusTcPusTm false) (block (zeros 12))) = some (0x134, []) := by decide +kernel

/-! ### Host accesses -/

/-- V-MEM-1, V-MEM-2: an `M_*` register keeps the low bits. -/
theorem test_metadata_write :
    (match step (doing used (.write .reg 0x20 4 0x12345678)) with | .next t => some t.m | _ => none) =
      some { Meta.zero with scid := 0x5678 } ∧
    (match step (doing used (.write .reg 0x24 4 0x000001FF)) with | .next t => some t.m | _ => none) =
      some { Meta.zero with vcid := 0xFF } := by decide

/-- V-MEM-3: a write of `STATUS` has no effect. -/
theorem test_status_write : resultsOf (step (doing used (.write .reg 0x04 4 0xFFFFFFFF))) = some used.results := by
  decide

/-- Reads of `OLEN`, `X_SCID` and the last byte of `HBUF`, zero-extended (R61, R63). -/
theorem test_reads :
    repliesOf (step (doing used (.read .reg 0x0C 4))) = some [0x00000002] ∧
    repliesOf (step (doing used (.read .reg 0x40 4))) = some [0x00001234] ∧
    repliesOf (step (doing used (.read .hbuf 2 1))) = some [0x00000056] := by decide

/-- V-MEM-5 to V-MEM-9 and R66: each refusal by its name. -/
theorem test_refusals :
    refusalOf (step (doing used (.write .reg 0x08 4 65))) = some .ilenBeyondCapacity ∧
    refusalOf (step (doing used (.read .reg 0x02 4))) = some .unalignedOffset ∧
    refusalOf (step (doing used (.read .reg 0x1C 4))) = some .reservedOffset ∧
    refusalOf (step (doing used (.read .ibuf 64 1))) = some .ibufOutOfRange ∧
    refusalOf (step (doing used (.read .ibuf 2 1))) = some .unwrittenCell ∧
    refusalOf (step (doing used (.read .obuf 2 1))) = some .obufOutOfRange ∧
    refusalOf (step (doing used (.read .hbuf 3 1))) = some .hbufOutOfRange ∧
    refusalOf (step (doing used (.write .obuf 0 1 0))) = some .resultBufferWrite ∧
    refusalOf (step (doing used (.read .reg 0x00 1))) = some .wrongSize ∧
    refusalOf (step (doing { used with ilen := 3 } (.write .reg 0x00 4 0x1000))) = some .unwrittenInput := by decide

/-- V-MEM-10, V-CMD-21: an illegal word is no refusal, even over unwritten input; `CMD` takes its low half. -/
theorem test_illegal_over_unwritten :
    resultsOf (step (doing { used with ilen := 3 } (.write .reg 0x00 4 0x00011000))) = some (.error 0x1000 0x105) := by
  decide

/-- V-RST-2: the CRC-16 of no bytes straight after reset, through the interface the host uses. -/
theorem test_reset_crc16 :
    resultsOf (step (State.reset.withFetchWord 16 0x2000)) =
      some ⟨0x2000, 0x100, [], [], Extracted.zero, 0x0000FFFF, 0⟩ := by decide +kernel
/-! ### The driver's side -/

/-- P1, first line: `META ptype=0x01, apid=0x2A, seq=0xBEEF` is `W 0 0x30`, `W 0 0x34`, `W 0 0x38`. -/
theorem test_meta_expansion :
    pseudoMeta [(.ptype, 0x01), (.apid, 0x2A), (.seq, 0xBEEF)] =
      [.write .reg 0x30 4 0x00000001, .write .reg 0x34 4 0x0000002A, .write .reg 0x38 4 0x0000BEEF] := by decide

/-- P1, line `LOAD 41 42`. -/
theorem test_load_expansion :
    pseudoLoad [0x41, 0x42] = [.write .ibuf 0 1 0x41, .write .ibuf 1 1 0x42, .write .reg 0x08 4 0x00000002] := by decide

/-! ### Witnesses: the hypotheses of every obligation that has any, met by a concrete state and operands, clause by
clause at the boundary where a clause has one -/

theorem witness_ResetInputRestoresTheResetState :
    ({ used with port := [.reset, .access (.read .reg 0 4)] } : State).port = .reset :: [.access (.read .reg 0 4)] := rfl

theorem witness_IdleStepChangesNothing : used.port = [] := rfl

theorem witness_StepRunsTheDecodedCommand :
    (doing used (.write .reg 0x00 4 0x00005103)).port = .access (.write .reg 0x00 4 0x00005103) :: [] ∧
      decode 0x00005103 = .ok (.convAosPusTc true) := ⟨rfl, rfl⟩

theorem witness_StepTakesOneEvent :
    (doing used (.read .reg 0x04 4)).port = .access (.read .reg 0x04 4) :: [] ∧
      step (doing used (.read .reg 0x04 4)) = .next { used with replies := [0x100] } := ⟨rfl, rfl⟩

/-- The least word with a bit above the command word, and the first reserved operation. -/
theorem witness_IllegalWordRaisesIllegalCommand :
    (doing used (.write .reg 0x00 4 0x00011000)).port = .access (.write .reg 0x00 4 0x00011000) :: [] ∧
      ¬ SpecLegal 0x00011000 ∧ ¬ SpecLegal 0x00006000 :=
  ⟨rfl, by unfold SpecLegal; decide, by unfold SpecLegal; decide⟩

/-- The first unknown tag of each operation. -/
theorem witness_UnknownTagRaisesFormatUnknown :
    (doing used (.write .reg 0x00 4 0x00005004)).port = .access (.write .reg 0x00 4 0x00005004) :: [] ∧
      (SpecLegal 0x00005004 ∧ SpecUnknownTag 0x00005004) ∧ (SpecLegal 0x00003040 ∧ SpecUnknownTag 0x00003040) ∧
      (SpecLegal 0x00004104 ∧ SpecUnknownTag 0x00004104) :=
  ⟨rfl, by unfold SpecLegal SpecUnknownTag; decide, by unfold SpecLegal SpecUnknownTag; decide,
    by unfold SpecLegal SpecUnknownTag; decide⟩

/-- The last known and the first unknown tag, and an illegal word. -/
theorem witness_LegalWordSelectsExactlyOneRow :
    (SpecLegal 0x00005133 ∧ ¬ SpecUnknownTag 0x00005133) ∧ ¬ SpecLegal 0x00007000 ∧
      (SpecLegal 0x00005134 ∧ SpecUnknownTag 0x00005134) :=
  ⟨by unfold SpecLegal SpecUnknownTag; decide, by unfold SpecLegal; decide,
    by unfold SpecLegal SpecUnknownTag; decide⟩

theorem witness_EncodeOfDecode : decode 0x00004103 = .ok (.encPusTc true) := rfl

/-- The state of the next witness, with a length at the top of the word. -/
def readAt (off : Nat) : State := { doing used (.read .reg off 4) with ilen := 2 ^ 32 - 1 }

/-- The first and the last offset of the map. -/
theorem witness_RegisterReadReturnsTheRegister :
    ((readAt 0x00).ilen < 2 ^ 32 ∧ (readAt 0x00).obuf.length < 2 ^ 32 ∧ (readAt 0x00).hbuf.length < 2 ^ 32 ∧
      (0x00, (0x3000 : Word)) ∈ [(0x00, (readAt 0x00).cmd.setWidth 32)] ∧
      (readAt 0x00).port = .access (.read .reg 0x00 4) :: []) ∧
    ((readAt 0x5C).ilen < 2 ^ 32 ∧ (readAt 0x5C).obuf.length < 2 ^ 32 ∧ (readAt 0x5C).hbuf.length < 2 ^ 32 ∧
      (0x5C, (0 : Word)) ∈ [(0x5C, (readAt 0x5C).x.plen.setWidth 32)] ∧
      (readAt 0x5C).port = .access (.read .reg 0x5C 4) :: []) :=
  ⟨⟨by decide, by decide, by decide, by decide, rfl⟩, by decide, by decide, by decide, by decide, rfl⟩

/-- The first and the last metadata register. -/
theorem witness_MetadataWriteTruncates :
    (doing used (.write .reg 0x20 4 0x12345678)).port = .access (.write .reg 0x20 4 0x12345678) :: [] ∧
      (doing used (.write .reg 0x38 4 0xFFFFFFFF)).port = .access (.write .reg 0x38 4 0xFFFFFFFF) :: [] ∧
      (0x12345678 : Word).extractLsb' 0 16 = (0x5678 : Half) := ⟨rfl, rfl, by decide⟩

/-- `ILEN = CAP` is within the bound, `CAP + 1` beyond it. -/
theorem witness_InputLengthWriteIsBounded :
    (doing used (.write .reg 0x08 4 64)).port = .access (.write .reg 0x08 4 64) :: [] ∧ (64 : Word).toNat ≤ used.cap ∧
      (doing used (.write .reg 0x08 4 65)).port = .access (.write .reg 0x08 4 65) :: [] ∧ used.cap < (65 : Word).toNat :=
  ⟨rfl, by decide, rfl, by decide⟩

theorem witness_ReadOnlyRegisterIgnoresWrites :
    (0x04 ∈ [0x04, 0x0C, 0x10, 0x14, 0x18, 0x40, 0x44, 0x48, 0x4C, 0x50, 0x54, 0x58, 0x5C] ∧
      0x5C ∈ [0x04, 0x0C, 0x10, 0x14, 0x18, 0x40, 0x44, 0x48, 0x4C, 0x50, 0x54, 0x58, 0x5C]) ∧
      (doing used (.write .reg 0x04 4 1)).port = .access (.write .reg 0x04 4 1) :: [] ∧
      (doing used (.write .reg 0x5C 4 1)).port = .access (.write .reg 0x5C 4 1) :: [] := ⟨by simp, rfl, rfl⟩

/-- The last cell, and a written one. -/
theorem witness_InputCellHoldsWhatWasWritten :
    63 < used.cap ∧ (doing used (.write .ibuf 63 1 0xAB)).port = .access (.write .ibuf 63 1 ((0xAB : Byte).setWidth 32)) :: [] ∧
      1 < used.cap ∧ (doing used (.read .ibuf 1 1)).port = .access (.read .ibuf 1 1) :: [] ∧
      used.ibuf.read 1 = some 0x42 := ⟨by decide, rfl, by decide, rfl, rfl⟩

/-- The last byte of each result buffer. -/
theorem witness_ResultBufferReadReturnsItsByte :
    used.obuf[1]? = some 0x42 ∧ (doing used (.read .obuf 1 1)).port = .access (.read .obuf 1 1) :: [] ∧
      used.hbuf[2]? = some 0x56 ∧ (doing used (.read .hbuf 2 1)).port = .access (.read .hbuf 2 1) :: [] :=
  ⟨rfl, rfl, rfl, rfl⟩

/-- An access of each kind of the list, at its boundary, and one that is not on it. -/
theorem witness_AccessRefusedExactlyWhenForbidden :
    (∀ a : Access, (doing used a).port = .access a :: []) ∧
      Forbidden used (.write .reg 0x08 4 65) ∧ Forbidden used (.read .reg 0x60 4) ∧
      Forbidden used (.read .ibuf 64 1) ∧ Forbidden used (.read .ibuf 2 1) ∧ Forbidden used (.read .obuf 2 1) ∧
      Forbidden used (.read .hbuf 3 1) ∧ Forbidden used (.write .hbuf 0 1 0) ∧ Forbidden used (.read .reg 0x00 1) ∧
      Forbidden { used with ilen := 3 } (.write .reg 0x00 4 0x1000) ∧
      step (doing used (.read .reg 0x5C 4)) = .next { used with replies := [0] } :=
  ⟨fun _ => rfl, .ilenBeyondCapacity (by decide), .readUnlisted (by decide), .ibufReadBeyond (by decide),
    .unwrittenCell rfl, .obufBeyond (by decide), .hbufBeyond (by decide), .hbufWrite, .wrongSize rfl,
    .unwrittenInput (i := .crc32) (k := 2) rfl (by decide) rfl, rfl⟩

/-- An access that is no read and no command write, and a read. -/
theorem witness_OnlyCommandWritesChangeResults :
    ((doing used (.write .reg 0x08 4 1)).port = .access (.write .reg 0x08 4 1) :: [] ∧
      step (doing used (.write .reg 0x08 4 1)) = .next { used with ilen := 1 }) ∧
    ((doing used (.read .hbuf 2 1)).port = .access (.read .hbuf 2 1) :: [] ∧
      step (doing used (.read .hbuf 2 1)) = .next { used with replies := [0x56] }) := ⟨⟨rfl, rfl⟩, rfl, rfl⟩

theorem witness_CommandsNeverChangeInputState :
    exec (.convAosAos true) (block [0x07]) =
      .next ((block [0x07]).withResults (.output 0x5100 [0x07]) (block [0x07]).hidden) := rfl

theorem witness_InputIsTheWrittenPrefix : (block frameC').input = some frameC' ∧ (block []).input = some [] := by decide

/-- One cell short, and exactly enough cells. -/
theorem witness_CommandCompletesOnEveryWrittenInput :
    ((∃ k, k < ({ used with ilen := 3 } : State).ilen ∧ ({ used with ilen := 3 } : State).ibuf.read k = none)) ∧
      ∀ k, k < used.ilen → used.ibuf.read k ≠ none := by
  refine ⟨⟨2, by decide, rfl⟩, ?_⟩
  decide

/-- Two blocks that differ in everything the claim does not name: an old result, a cell above the input, a metadata
register the command does not read. -/
theorem witness_ResultsDependOnlyOnTheInput :
    (block [0x41, 0x42]).ilen = used.ilen ∧
      (∀ k, k < (block [0x41, 0x42]).ilen → (block [0x41, 0x42]).ibuf.read k =
        ({ used with ibuf := cellsFrom 0 [0x41, 0x42, 0x43], m := { Meta.zero with seq := 9 } } : State).ibuf.read k) ∧
      metaAgree (metaReader (.encAos true)) (block [0x41, 0x42]).m
        ({ used with ibuf := cellsFrom 0 [0x41, 0x42, 0x43], m := { Meta.zero with seq := 9 } } : State).m :=
  ⟨rfl, by decide, rfl, rfl⟩

/-- The invariant holds of a block that holds a decoded frame, and a step from it goes on. -/
theorem witness_EveryStepKeepsTheInvariant :
    (doing used (.read .reg 0x04 4)).Inv ∧
      step (doing used (.read .reg 0x04 4)) = .next { used with replies := [0x100] } :=
  ⟨{ capacity := by decide, canonical := by decide, cells := by decide, inputLength := by decide,
      outputLength := by decide, headerLength := by decide, status := .inr (.inl rfl),
      allOrNothing := fun h => absurd rfl h, headerless := fun h => absurd h (by decide), crcAgree := fun _ => rfl }, rfl⟩

theorem witness_Crc32CommandResult : used.input = some [0x41, 0x42] ∧ State.reset.input = some [] := ⟨rfl, rfl⟩

theorem witness_Crc16CommandResult : used.input = some [0x41, 0x42] ∧ State.reset.input = some [] := ⟨rfl, rfl⟩

/-- A frame of each protocol its decoder accepts, and the last bit of its last byte. -/
theorem witness_SingleBitErrorIsAlwaysDetected :
    decodeBy .aos frameA' = .ok ⟨[0x12, 0x34, 0x56], [0x41, 0x42]⟩ ∧ 8 < frameA'.length ∧
      decodeBy .ccsds (least .ccsds) = .ok ⟨zeros 8 ++ [0x06], []⟩ ∧ 12 < (least .ccsds).length ∧
      decodeBy .pusTm (least .pusTm) = .ok ⟨zeros 12, []⟩ ∧ 13 < (least .pusTm).length ∧
      decodeBy .pusTc (least .pusTc) = .ok ⟨zeros 10, []⟩ ∧ 11 < (least .pusTc).length ∧ 7 < 8 := by decide +kernel

/-- Two bytes of the prefix are no prefix; neither is one that stands later. -/
theorem witness_MagicPrefixIsStrippedOnce :
    (¬ ∃ rest, ([0x00, 0x7B] : List Byte) = 0x00 :: 0x7B :: 0x7C :: rest) ∧
      ¬ ∃ rest, ([0x41, 0x00, 0x7B, 0x7C] : List Byte) = 0x00 :: 0x7B :: 0x7C :: rest := by
  constructor <;> (rintro ⟨rest, h⟩; simp at h)

/-- V-X-1b, V-X-2b: both sides of each bound. -/
theorem witness_FrameOfSharedGeneratorIsAccepted :
    (decodePusTc frameK = .ok ⟨zeros 10, [0x41, 0x42]⟩ ∧ 14 ≤ frameK.length) ∧
      (decodePusTc (zeros 10 ++ [0x41, 0x8C, 0xEA]) = .ok ⟨zeros 10, [0x41]⟩ ∧
        (zeros 10 ++ [0x41, 0x8C, 0xEA]).length < 14) ∧
      (decodeAos [0, 0, 0, 1, 2, 3, 4, 5, 6, 0xD6, 0x3D, 0xC2, 0x29] = .ok ⟨[0, 0, 0], [1, 2, 3, 4, 5, 6]⟩ ∧
        13 ≤ ([0, 0, 0, 1, 2, 3, 4, 5, 6, 0xD6, 0x3D, 0xC2, 0x29] : List Byte).length) ∧
      (decodeAos [0, 0, 0, 1, 2, 3, 4, 5, 0xE4, 0x0B, 0xB1, 0x80] = .ok ⟨[0, 0, 0], [1, 2, 3, 4, 5]⟩ ∧
        ([0, 0, 0, 1, 2, 3, 4, 5, 0xE4, 0x0B, 0xB1, 0x80] : List Byte).length < 13) := by
  decide +kernel

/-- What the three clauses of a decoding with minimum length `n` ask: an input of `n - 1` bytes, one of `n` bytes with a
wrong trailer, and the smallest good frame. -/
def decodeClauses (n w : Nat) (good : List Byte) (crc rcvd : List Byte → Word) : Prop :=
  ((block (zeros (n - 1))).input = some (zeros (n - 1)) ∧ (zeros (n - 1)).length < n) ∧
  ((block (zeros n)).input = some (zeros n) ∧ n ≤ (zeros n).length ∧
    crc ((zeros n).take (n - w)) ≠ rcvd ((zeros n).drop (n - w))) ∧
  ((block good).input = some good ∧ n ≤ good.length ∧
    crc (good.take (good.length - w)) = rcvd (good.drop (good.length - w)))

theorem witness_DecAosResult : decodeClauses 7 4 (least .aos) crc32Ieee u32be := by unfold decodeClauses; decide +kernel

theorem witness_DecCcsdsResult : decodeClauses 13 4 (least .ccsds) crc32Ieee u32be := by
  unfold decodeClauses; decide +kernel

theorem witness_DecPusTmResult :
    decodeClauses 14 2 (least .pusTm) (fun s => (0 : Half) ++ crc16Ccitt s) (fun t => (0 : Half) ++ u16be t) := by
  unfold decodeClauses; decide +kernel

theorem witness_DecPusTcResult :
    decodeClauses 12 2 (least .pusTc) (fun s => (0 : Half) ++ crc16Ccitt s) (fun t => (0 : Half) ++ u16be t) := by
  unfold decodeClauses; decide +kernel

/-- The body named in the statement is a plain equation, met by choosing it; the input is the other hypothesis. -/
theorem witness_EncAosResult :
    (blockM [0x41, 0x42]).input = some [0x41, 0x42] ∧
      ([0x12, 0x34, 0x56, 0x41, 0x42] : List Byte) = (if true then [(blockM [0x41, 0x42]).m.scid.extractLsb' 8 8,
        (blockM [0x41, 0x42]).m.scid.extractLsb' 0 8, (blockM [0x41, 0x42]).m.vcid] else [0, 0, 0]) ++ [0x41, 0x42] := by
  decide

theorem witness_EncCcsdsResult :
    (block [0x41, 0x42]).input = some [0x41, 0x42] ∧
      ([0, 0, 0, 0, 0, 0, 0, 0, 8, 0x41, 0x42] : List Byte) = [0x00, if false then (block [0x41, 0x42]).m.ptype else 0, 0x00,
        0x00, if false then (block [0x41, 0x42]).m.seq.extractLsb' 8 8 else 0,
        if false then (block [0x41, 0x42]).m.seq.extractLsb' 0 8 else 0, if false then (block [0x41, 0x42]).m.apid else 0,
        BitVec.ofNat 8 ((([0x41, 0x42] : List Byte).length + 6) / 256),
        BitVec.ofNat 8 (([0x41, 0x42] : List Byte).length + 6)] ++ [0x41, 0x42] := by
  decide

theorem witness_EncPusTmResult :
    (blockM [0x41]).input = some [0x41] ∧
      ([0, 0, 0, 0, 0, 0, 0x03, 0x19, 0, 0, 0, 0, 0x41] : List Byte) = [0, 0, 0, 0, 0, 0,
        if true then (blockM [0x41]).m.svc else 0, if true then (blockM [0x41]).m.subsvc else 0, 0, 0, 0, 0] ++ [0x41] := by
  decide

theorem witness_EncPusTcResult :
    (blockM [0x41]).input = some [0x41] ∧
      ([0x03, 0x19, 0, 0, 0, 0, 0, 0, 0, 0, 0x41] : List Byte) = [if true then (blockM [0x41]).m.svc else 0,
        if true then (blockM [0x41]).m.subsvc else 0, 0, 0, 0, 0, 0, 0, 0, 0] ++ [0x41] := by
  decide

theorem witness_PassthroughReturnsItsInput : (block [0x00, 0x00]).input = some [0x00, 0x00] := by decide

theorem witness_ConvFromAosResult : decodeClauses 7 4 (least .aos) crc32Ieee u32be := witness_DecAosResult

theorem witness_ConvFromCcsdsResult : decodeClauses 13 4 (least .ccsds) crc32Ieee u32be := witness_DecCcsdsResult

theorem witness_ConvFromPusTmResult :
    decodeClauses 14 2 (least .pusTm) (fun s => (0 : Half) ++ crc16Ccitt s) (fun t => (0 : Half) ++ u16be t) :=
  witness_DecPusTmResult

theorem witness_ConvFromPusTcResult :
    decodeClauses 12 2 (least .pusTc) (fun s => (0 : Half) ++ crc16Ccitt s) (fun t => (0 : Half) ++ u16be t) :=
  witness_DecPusTcResult

/-- What `ConversionOutputLength` asks of the conversion that passes bytes on, of a cross conversion, and of one that
strips a prefix from the shortest frame that has one (V-AOS-6). -/
theorem witness_ConversionOutputLength :
    ((block frameA).input = some frameA ∧ outOf (exec (convInstr false .aos .aos) (block frameA)) = some (0x100, frameA)) ∧
      ((block frameM).input = some frameM ∧
        outOf (exec (convInstr false .pusTm .ccsds) (block frameM)) = some (0x100, frameC)) ∧
      ((block [0, 0, 0, 0, 0x7B, 0x7C, 0x24, 0xBA, 0x3C, 0x89]).input =
          some [0, 0, 0, 0, 0x7B, 0x7C, 0x24, 0xBA, 0x3C, 0x89] ∧
        outOf (exec (convInstr false .aos .pusTm) (block [0, 0, 0, 0, 0x7B, 0x7C, 0x24, 0xBA, 0x3C, 0x89])) =
          some (0x100, least .pusTm)) := by decide +kernel

theorem witness_ConversionKeepsThePayload :
    Protocol.ccsds ≠ Protocol.aos ∧
      decodeBy .ccsds [0, 0, 0, 0, 0, 0, 0, 0, 0x0A, 0, 0x7B, 0x7C, 0x99, 0x17, 0x39, 0xC4, 0x88] =
        .ok ⟨[0, 0, 0, 0, 0, 0, 0, 0, 0x0A], [0, 0x7B, 0x7C, 0x99]⟩ := by decide +kernel

/-- `AOS` in capitals is no protocol, and neither is the empty string (R113). -/
theorem witness_TagStringsParseExactly :
    (∀ p, ([0x41, 0x4F, 0x53] : List Byte) ≠ tagString p) ∧ ∀ p, ([] : List Byte) ≠ tagString p := by
  constructor <;> (intro p; cases p <;> decide)

/-- A sequence as long as the capacity, and an empty one. -/
theorem witness_LoadPlacesTheInput :
    (zeros 64).length ≤ used.cap ∧ (zeros 64).length < 2 ^ 32 ∧
      ({ used with port := asEvents (pseudoLoad (zeros 64)) } : State).port = asEvents (pseudoLoad (zeros 64)) ∧
      (zeros 0).length ≤ used.cap :=
  ⟨by decide, by decide, rfl, by decide⟩

theorem witness_MoveCopiesTheOutput :
    used.obuf.length ≤ used.cap ∧ used.obuf.length < 2 ^ 32 ∧
      ({ used with port := asEvents (pseudoMove used.obuf) } : State).port = asEvents (pseudoMove used.obuf) :=
  ⟨by decide, by decide, rfl⟩

/-- A name given twice, and one whose value does not fit its register. -/
theorem witness_MetaSetsTheNamedRegisters :
    ({ used with port := asEvents (pseudoMeta [(.vcid, 0x1FF), (.seq, 1), (.seq, 2)]) } : State).port =
        asEvents (pseudoMeta [(.vcid, 0x1FF), (.seq, 1), (.seq, 2)]) ∧
      [(MetaName.vcid, (0x1FF : Word)), (.seq, 1), (.seq, 2)].foldl metaAssign Meta.zero =
        { Meta.zero with vcid := 0xFF, seq := 2 } := ⟨rfl, by decide⟩

theorem witness_ClrmetaZeroesTheMetadata :
    ({ used with m := sampleMeta, port := asEvents pseudoClrmeta } : State).port = asEvents pseudoClrmeta := rfl

end Sys2Proof.Tests
end

/-! ## What a step can do

What the host port does to the state, said once: a command replaces the results alone, an access has one of five
effects, and an event leaves the rest of the port and the capacity as they were. -/

namespace Sys2Proof.Machine

/-- A command that goes on changes nothing but the results and the hidden registers (R35): the capacity, the input
state, the port and the replies stay. -/
theorem exec_next_eq_withResults {i : Instr} {s t : State} (h : exec i s = .next t) :
    t = s.withResults t.results t.hidden := by
  rcases exec_shape i s with ⟨k, e⟩ | ⟨p, e⟩ | ⟨p, e⟩ | ⟨p, q, e⟩ <;> rw [e] at h
  · obtain ⟨raw, -, rfl⟩ := checksumCommand_next h
    rfl
  · obtain ⟨raw, -, ⟨e, -, rfl⟩ | ⟨m, -, rfl⟩⟩ := decodeCommand_next h
    · rfl
    · rfl
  · obtain ⟨raw, -, rfl⟩ := encodeCommand_next h
    rfl
  · obtain ⟨raw, -, ⟨e, -, rfl⟩ | ⟨out, -, rfl⟩⟩ := convertCommand_next h
    · cases p == q <;> rfl
    · cases p == q <;> rfl

/-- A write of `CMD` that goes on changes nothing but the results and the hidden registers, rejected word or not. -/
theorem writeCmd_next_eq_withResults {w : Word} {s t : State} (h : writeCmd w s = .next t) :
    t = s.withResults t.results t.hidden := by
  rcases writeCmd_cases w s with ⟨-, e⟩ | ⟨-, e⟩ | ⟨i, -, e⟩ <;> rw [e] at h
  · cases h
    rfl
  · cases h
    rfl
  · exact exec_next_eq_withResults h

/-- What a host access can do when the step goes on: a reply, a command, a new `ILEN`, new metadata, or one input
cell. -/
theorem hostAccess_next {a : Access} {s t : State} (h : hostAccess a s = .next t) :
    (∃ v, t = { s with replies := s.replies ++ [v] }) ∨
    (∃ w, writeCmd w s = .next t) ∨
    (∃ n, n ≤ s.cap ∧ t = { s with ilen := n }) ∨
    (∃ m, t = { s with m := m }) ∨
    (∃ i b, i < s.cap ∧ t = { s with ibuf := s.ibuf.write i b }) := by
  cases a with
  | read sp addr n =>
    obtain ⟨v, -, rfl⟩ := hostAccess_read_next h
    exact .inl ⟨v, rfl⟩
  | write sp addr n v =>
    rcases memWrite_next h with ⟨r, -, -, -, hr⟩ | ⟨-, -, hi, rfl⟩
    · rcases writeReg_next hr with ⟨-, hc⟩ | ⟨-, hv, rfl⟩ | ⟨-, -, m, rfl⟩
      · exact .inr (.inl ⟨v, hc⟩)
      · exact .inr (.inr (.inl ⟨_, hv, rfl⟩))
      · exact .inr (.inr (.inr (.inl ⟨m, rfl⟩)))
    · exact .inr (.inr (.inr (.inr ⟨_, _, hi, rfl⟩)))

/-- A host access neither takes nor adds an event at the port, and keeps the capacity. -/
theorem hostAccess_keeps_port_cap {a : Access} {s t : State} (h : hostAccess a s = .next t) :
    t.port = s.port ∧ t.cap = s.cap := by
  rcases hostAccess_next h with ⟨v, rfl⟩ | ⟨w, hw⟩ | ⟨n, -, rfl⟩ | ⟨m, rfl⟩ | ⟨i, b, -, rfl⟩
  · exact ⟨rfl, rfl⟩
  · rw [writeCmd_next_eq_withResults hw]
    exact ⟨rfl, rfl⟩
  · exact ⟨rfl, rfl⟩
  · exact ⟨rfl, rfl⟩
  · exact ⟨rfl, rfl⟩

/-- Nor does any event, the reset input included (R240): what an event does leaves the rest of the port as it was. -/
theorem portEvent_keeps_port_cap {e : PortEvent} {s t : State} (h : portEvent e s = .next t) :
    t.port = s.port ∧ t.cap = s.cap := by
  cases e with
  | access a => exact hostAccess_keeps_port_cap h
  | reset =>
    cases h
    exact ⟨rfl, rfl⟩

/-- Settles O5: the step takes the event off, and what the event then does leaves the port alone. -/
theorem stepTakesOneEvent : Obligations.StepTakesOneEvent := by
  intro s t e rest hp h
  rw [step_event hp] at h
  exact portEvent_keeps_port_cap h

/-- Settles O3. -/
theorem idleStepChangesNothing : Obligations.IdleStepChangesNothing := fun _ => step_idle

end Sys2Proof.Machine

/-! ## The lengths of frames

How long a decoder's results and an encoder's frame are, against the length of what they were made of. -/

namespace Sys2Proof.Machine

/-- The largest minimum length, that of PUS_TM, is the 14 of `OCAP = CAP + 14` (R26, R46). -/
theorem layout_minimumTotalLength_le (p : Protocol) : (layout p).minimumTotalLength ≤ 14 := by
  cases p <;> decide

/-- A stripped payload is never longer than it was (R143). -/
theorem stripMagic_length_le (rest : List Byte) : (stripMagic rest).length ≤ rest.length := by
  rcases stripMagic_cases rest with ⟨-, -, e⟩ | ⟨-, e⟩ <;> simp [e]

/-- Every decoder is the common decode steps at its own layout; only AOS then shortens the payload. -/
theorem decodeBy_ok_decodeFrame {p : Protocol} {raw : List Byte} {m : Message} (h : decodeBy p raw = .ok m) :
    ∃ payload, decodeFrame (layout p) raw = .ok ⟨m.header, payload⟩ ∧ m.payload.length ≤ payload.length := by
  cases p with
  | aos =>
    simp only [decodeBy, decodeAos] at h
    split at h
    · cases h
    · next f hf =>
      cases h
      exact ⟨f.payload, hf, stripMagic_length_le _⟩
  | ccsds => exact ⟨m.payload, h, le_rfl⟩
  | pusTm => exact ⟨m.payload, h, le_rfl⟩
  | pusTc => exact ⟨m.payload, h, le_rfl⟩

/-- What an accepted frame tells: its header is complete, its payload leaves room for header and trailer, and its
checksum agrees with its trailer (R142, R152, R162, R172). -/
theorem decodeBy_ok {p : Protocol} {raw : List Byte} {m : Message} (h : decodeBy p raw = .ok m) :
    m.header.length = (layout p).headerLength ∧
      m.payload.length + (layout p).minimumTotalLength ≤ raw.length ∧
      crcOf (layout p).crcAlgorithm (remainderOf (layout p) raw) =
        rcvdOf (layout p).crcAlgorithm (trailerBytes (layout p) raw) := by
  obtain ⟨payload, hf, hle⟩ := decodeBy_ok_decodeFrame h
  rcases decodeFrame_cases (layout p) raw with ⟨-, e⟩ | ⟨-, -, e⟩ | ⟨hlen, hcrc, e⟩ <;> rw [hf] at e
  · cases e
  · cases e
  · injection e with e
    injection e with hheader hpayload
    subst hpayload
    simp only [FrameLayout.minimumTotalLength, List.length_drop, remainderOf_length] at *
    refine ⟨?_, by omega, hcrc⟩
    rw [hheader, List.length_take, remainderOf_length]
    omega

/-- A trailer is as wide as its checksum (R130). -/
theorem trailerOf_length (p : Protocol) (s : List Byte) :
    (trailerOf (layout p).crcAlgorithm s).length = (layout p).crcWidth := by
  cases p <;> rfl

theorem sealFrame_length (p : Protocol) (header payload : List Byte) :
    (sealFrame (layout p).crcAlgorithm header payload).length =
      header.length + payload.length + (layout p).crcWidth := by
  simp only [sealFrame, List.length_append, trailerOf_length]

/-- Every encoder seals a header of its protocol's length and the whole payload (R145, R155, R165, R175). -/
theorem encodeBy_eq_sealFrame (p : Protocol) (payload : List Byte) (m : Meta) :
    ∃ header, header.length = (layout p).headerLength ∧
      encodeBy p payload m = sealFrame (layout p).crcAlgorithm header payload := by
  cases p <;> exact ⟨_, by rfl, rfl⟩

/-- An encoder adds to the payload exactly a header and a trailer (R145, R155, R165, R175). -/
@[simp] theorem encodeBy_length (p : Protocol) (payload : List Byte) (m : Meta) :
    (encodeBy p payload m).length = payload.length + (layout p).minimumTotalLength := by
  obtain ⟨header, hlen, e⟩ := encodeBy_eq_sealFrame p payload m
  rw [e, sealFrame_length, hlen, FrameLayout.minimumTotalLength]
  omega

/-- A conversion's output is at most 14 bytes longer than its input (R26). -/
theorem convert_ok_length_le {p q : Protocol} {raw out : List Byte} {m : Meta} (h : convert p q raw m = .ok out) :
    out.length ≤ raw.length + 14 := by
  by_cases hpq : p = q
  · subst hpq
    rw [convert_same] at h
    cases h
    omega
  · rcases convert_cross hpq raw m with ⟨k, -, e⟩ | ⟨msg, hm, e⟩ <;> rw [e] at h
    · cases h
    · cases h
      obtain ⟨-, hpayload, -⟩ := decodeBy_ok hm
      have hq := layout_minimumTotalLength_le q
      rw [encodeBy_length]
      omega

end Sys2Proof.Machine

/-! ## The invariant

It holds of the reset values, and each thing a step can do keeps it. -/

namespace Sys2Proof.Machine

/-- The values of reset satisfy the invariant at every capacity R10 allows, whatever the hidden registers, the port
and the replies hold. -/
theorem inv_of_reset_values {n : Nat} (hn : 14 ≤ n) (h : Hidden) (port : List PortEvent) (replies : List Word) :
    ({ State.reset with cap := n, hidden := h, port := port, replies := replies } : State).Inv where
  capacity := hn
  canonical := reset_ibuf_wf
  cells _ hp := absurd hp List.not_mem_nil
  inputLength := Nat.zero_le _
  outputLength := Nat.zero_le _
  headerLength := List.mem_cons_self
  status := .inl rfl
  allOrNothing _ := ⟨rfl, rfl, rfl, rfl, rfl⟩
  headerless _ := ⟨rfl, rfl⟩
  crcAgree hne := absurd rfl hne

/-- Settles O24: `CAP` is 14 and more whatever an implementation chose. -/
theorem invariantHoldsAtReset : Obligations.InvariantHoldsAtReset :=
  inv_of_reset_values (Nat.le_add_left 14 Config.capExtra) _ _ _

/-- Every error code is a value `STATUS` can take (R24, R211). -/
theorem legalStatus_code (e : CmdError) : legalStatus e.code := by
  unfold legalStatus
  cases e with
  | conversionFailed k => cases k <;> decide
  | formatUnknown => decide
  | tooShort => decide
  | checksumMismatch => decide
  | illegalCommand => decide

section

variable {s t : State}

/-- Whether the results are cleared is read off the result state alone. -/
theorem State.ResultsCleared.of_results_eq (hs : s.ResultsCleared) (hr : t.results = s.results) :
    t.ResultsCleared := by
  simp only [State.results, Results.mk.injEq] at hr
  obtain ⟨-, -, hobuf, hhbuf, hx, hcalc, hrcvd⟩ := hr
  exact ⟨hobuf.trans hs.obuf, hhbuf.trans hs.hbuf, hx.trans hs.x, hcalc.trans hs.crcCalc, hrcvd.trans hs.crcRcvd⟩

/-- What keeps the capacity and the result state keeps the invariant, as long as the input state stays in bounds. -/
theorem State.Inv.of_results_eq (hs : s.Inv) (hcap : t.cap = s.cap) (hr : t.results = s.results)
    (canonical : Memory.wf t.ibuf) (cells : ∀ p ∈ t.ibuf, p.1 < t.cap) (inputLength : t.ilen ≤ t.cap) :
    t.Inv := by
  have hcleared (h : s.ResultsCleared) : t.ResultsCleared := h.of_results_eq hr
  simp only [State.results, Results.mk.injEq] at hr
  obtain ⟨-, hstatus, hobuf, hhbuf, hx, hcalc, hrcvd⟩ := hr
  exact
    { capacity := hcap ▸ hs.capacity
      canonical := canonical
      cells := cells
      inputLength := inputLength
      outputLength := by rw [hobuf, hcap]; exact hs.outputLength
      headerLength := by rw [hhbuf]; exact hs.headerLength
      status := by rw [hstatus]; exact hs.status
      allOrNothing := by rw [hstatus]; exact fun h => hcleared (hs.allOrNothing h)
      headerless := by rw [hhbuf, hx, hrcvd]; exact hs.headerless
      crcAgree := by rw [hhbuf, hcalc, hrcvd]; exact hs.crcAgree }

/-- What keeps the capacity, the result state, the buffer and its length keeps the invariant. -/
theorem State.Inv.of_block_eq (hs : s.Inv) (hcap : t.cap = s.cap) (hr : t.results = s.results)
    (hibuf : t.ibuf = s.ibuf) (hilen : t.ilen = s.ilen) : t.Inv := by
  refine hs.of_results_eq hcap hr ?_ ?_ ?_
  · exact hibuf ▸ hs.canonical
  · rw [hibuf, hcap]
    exact hs.cells
  · rw [hilen, hcap]
    exact hs.inputLength

/-- A checksum computation touches nothing the invariant speaks of. -/
theorem State.Inv.drawHidden (hs : s.Inv) : s.drawHidden.Inv := hs.of_block_eq rfl rfl rfl rfl

theorem State.Inv.drawUnless (hs : s.Inv) (pass : Bool) : (s.drawUnless pass).Inv := by
  cases pass
  · exact hs.drawHidden
  · exact hs

/-- Raising an error keeps the invariant: the status is an error code and every result is cleared (R216). -/
theorem State.Inv.raise (hs : s.Inv) (e : CmdError) (c : Half) : (s.raise e c).Inv :=
  { hs with
    outputLength := Nat.zero_le _
    headerLength := List.mem_cons_self
    status := legalStatus_code e
    allOrNothing := fun _ => ⟨rfl, rfl, rfl, rfl, rfl⟩
    headerless := fun _ => ⟨rfl, rfl⟩
    crcAgree := fun hne => absurd rfl hne }

/-- A command that ends with no header, only an output and a checksum, keeps the invariant (R35). -/
theorem State.Inv.finish_output (hs : s.Inv) {out : List Byte} (hout : out.length ≤ s.cap + 14) (crc : Word)
    (c : Half) : ({ s.clearResults with obuf := out, crcCalc := crc }.finish c).Inv :=
  { hs with
    outputLength := hout
    headerLength := List.mem_cons_self
    status := .inr (.inl rfl)
    allOrNothing := fun hne => absurd rfl hne
    headerless := fun _ => ⟨rfl, rfl⟩
    crcAgree := fun hne => absurd rfl hne }

/-- A decode command that accepts its frame keeps the invariant: the header is complete and the CRCs agree. -/
theorem State.Inv.finish_decoded (hs : s.Inv) {p : Protocol} {raw : List Byte} {m : Message}
    (hraw : raw.length ≤ s.cap) (hm : decodeBy p raw = .ok m) (c : Half) :
    ((s.decoded (layout p) (fieldsBy p) raw m).finish c).Inv := by
  obtain ⟨hheader, hpayload, hcrc⟩ := decodeBy_ok hm
  have hlen : m.header.length ∈ [3, 9, 10, 12] := by
    rw [hheader]
    cases p <;> decide
  have hne : m.header ≠ [] := by
    intro hnil
    simp [hnil] at hlen
  exact
    { hs with
      outputLength := show m.payload.length ≤ s.cap + 14 by omega
      headerLength := List.mem_cons_of_mem _ hlen
      status := .inr (.inl rfl)
      allOrNothing := fun h => absurd rfl h
      headerless := fun h => absurd h hne
      crcAgree := fun _ => hcrc }

/-- The input is never longer than the capacity (R25, R32). -/
theorem State.Inv.input_length_le (hs : s.Inv) {raw : List Byte} (h : s.input = some raw) : raw.length ≤ s.cap :=
  (State.input_length h).trans_le hs.inputLength

/-- Every command keeps the invariant. -/
theorem State.Inv.exec (hs : s.Inv) {i : Instr} (h : exec i s = .next t) : t.Inv := by
  rcases exec_shape i s with ⟨k, e⟩ | ⟨p, e⟩ | ⟨p, e⟩ | ⟨p, q, e⟩ <;> rw [e] at h
  · obtain ⟨raw, -, rfl⟩ := checksumCommand_next h
    exact hs.drawHidden.finish_output (out := []) (Nat.zero_le _) _ _
  · obtain ⟨raw, hraw, ⟨e, -, rfl⟩ | ⟨m, hm, rfl⟩⟩ := decodeCommand_next h
    · exact hs.drawHidden.raise _ _
    · exact hs.drawHidden.finish_decoded (hs.input_length_le hraw) hm _
  · obtain ⟨payload, hraw, rfl⟩ := encodeCommand_next h
    have hin := hs.input_length_le hraw
    have hp := layout_minimumTotalLength_le p
    refine hs.drawHidden.finish_output ?_ _ _
    rw [encodeBy_length, State.drawHidden_cap]
    omega
  · obtain ⟨raw, hraw, ⟨e, -, rfl⟩ | ⟨out, hout, rfl⟩⟩ := convertCommand_next h
    · exact (hs.drawUnless _).raise _ _
    · have hin := hs.input_length_le hraw
      have hle := convert_ok_length_le hout
      refine (hs.drawUnless _).finish_output ?_ 0 _
      rw [State.drawUnless_cap]
      omega

/-- A write of `CMD` keeps the invariant, whatever the word. -/
theorem State.Inv.writeCmd (hs : s.Inv) {w : Word} (h : writeCmd w s = .next t) : t.Inv := by
  rcases writeCmd_cases w s with ⟨-, e⟩ | ⟨-, e⟩ | ⟨i, -, e⟩ <;> rw [e] at h
  · cases h
    exact hs.raise _ _
  · cases h
    exact hs.raise _ _
  · exact hs.exec h

/-- Writing a cell below the capacity keeps the buffer canonical and within it (R32, R62). -/
theorem State.Inv.write_ibuf (hs : s.Inv) {a : Nat} (ha : a < s.cap) (b : Byte) :
    ({ s with ibuf := s.ibuf.write a b } : State).Inv := by
  refine hs.of_results_eq rfl rfl (Memory.wf_write hs.canonical a b) (fun p hp => ?_) hs.inputLength
  rcases Memory.mem_write hp with rfl | hp
  · exact ha
  · exact hs.cells p hp

/-- Every host access keeps the invariant. -/
theorem State.Inv.hostAccess (hs : s.Inv) {a : Access} (h : hostAccess a s = .next t) : t.Inv := by
  rcases hostAccess_next h with ⟨v, rfl⟩ | ⟨w, hw⟩ | ⟨n, hn, rfl⟩ | ⟨m, rfl⟩ | ⟨i, b, hi, rfl⟩
  · exact hs.of_block_eq rfl rfl rfl rfl
  · exact hs.writeCmd hw
  · exact hs.of_results_eq rfl rfl hs.canonical hs.cells hn
  · exact hs.of_block_eq rfl rfl rfl rfl
  · exact hs.write_ibuf hi b

/-- Every event at the port keeps the invariant, the reset input included (R240). -/
theorem State.Inv.portEvent (hs : s.Inv) {e : PortEvent} (h : portEvent e s = .next t) : t.Inv := by
  cases e with
  | access a => exact hs.hostAccess h
  | reset =>
    cases h
    exact inv_of_reset_values hs.capacity _ _ _

end

/-- Settles O25: a step is idle or one event, on a state that differs in its port alone. -/
theorem everyStepKeepsTheInvariant : Obligations.EveryStepKeepsTheInvariant := by
  intro s t hs h
  cases hp : s.port with
  | nil =>
    rw [step_idle hp] at h
    cases h
    exact hs
  | cons e rest =>
    rw [step_event hp] at h
    have hrest : ({ s with port := rest } : State).Inv := hs.of_block_eq rfl rfl rfl rfl
    exact hrest.portEvent h

end Sys2Proof.Machine

/-! ## Byte order

The bytes of a word are its digits to the base 256 (R13): the conversions put such digits together and take them apart,
so both inverses are arithmetic on `toNat`. -/

namespace Sys2Proof.Machine

/-- A byte appended below `x` is the last digit of the value to the base 256. -/
theorem toNat_append_byte {n : Nat} (x : BitVec n) (b : Byte) : (x ++ b).toNat = x.toNat * 256 + b.toNat := by
  rw [BitVec.toNat_append, ← Nat.shiftLeft_add_eq_or_of_lt b.isLt, Nat.shiftLeft_eq]

/-- The byte from bit `k` on is the digit at the weight `2 ^ k`. -/
theorem toNat_extract_byte {n : Nat} (v : BitVec n) (k : Nat) :
    (v.extractLsb' k 8).toNat = v.toNat / 2 ^ k % 256 := by
  rw [BitVec.extractLsb'_toNat, Nat.shiftRight_eq_div_pow]

/-- `u16be` gives the first byte the weight 256 (R13). -/
theorem toNat_u16be (a b : Byte) : (u16be [a, b]).toNat = a.toNat * 256 + b.toNat :=
  toNat_append_byte a b

/-- `u32be` gives the four bytes the weights of R13, the first the highest. -/
theorem toNat_u32be (a b c d : Byte) :
    (u32be [a, b, c, d]).toNat = a.toNat * 2 ^ 24 + b.toNat * 2 ^ 16 + c.toNat * 2 ^ 8 + d.toNat := by
  have h : (u32be [a, b, c, d]).toNat = ((a ++ b ++ c).toNat) * 256 + d.toNat := toNat_append_byte _ d
  rw [h, toNat_append_byte, toNat_append_byte]
  omega

theorem be16_u16be (a b : Byte) : be16 (u16be [a, b]) = [a, b] := by
  have ha := a.isLt
  have hb := b.isLt
  simp only [be16, List.cons.injEq, and_true, ← BitVec.toNat_inj, toNat_extract_byte, toNat_u16be]
  omega

theorem be32_u32be (a b c d : Byte) : be32 (u32be [a, b, c, d]) = [a, b, c, d] := by
  have ha := a.isLt
  have hb := b.isLt
  have hc := c.isLt
  have hd := d.isLt
  simp only [be32, List.cons.injEq, and_true, ← BitVec.toNat_inj, toNat_extract_byte, toNat_u32be]
  omega

theorem u16be_be16 (v : Half) : u16be (be16 v) = v := by
  have hv := v.isLt
  apply BitVec.eq_of_toNat_eq
  simp only [be16, toNat_u16be, toNat_extract_byte]
  omega

theorem u32be_be32 (v : Word) : u32be (be32 v) = v := by
  have hv := v.isLt
  apply BitVec.eq_of_toNat_eq
  simp only [be32, toNat_u32be, toNat_extract_byte]
  omega

/-- Settles O34: the weights are those of `toNat_u16be` and `toNat_u32be`, the inverses follow from them. -/
theorem conversionsAreBigEndian : Obligations.ConversionsAreBigEndian :=
  ⟨fun a b => ⟨toNat_u16be a b, be16_u16be a b⟩,
    fun a b c d => ⟨toNat_u32be a b c d, be32_u32be a b c d⟩, u16be_be16, u32be_be32⟩

end Sys2Proof.Machine

/-! ## The input of a command

The input operand is `ILEN` bytes, read cell by cell (R32); it has no value when one of the cells is unwritten. -/

namespace Sys2Proof.Machine

/-- The bytes from cell `a` on, index by index. -/
theorem Memory.bytesFrom_eq_some {m : Memory} {a n : Nat} {bs : List Byte} :
    m.bytesFrom a n = some bs ↔ bs.length = n ∧ ∀ k, k < n → m.read (a + k) = bs[k]? := by
  induction n generalizing a bs with
  | zero => cases bs <;> simp [Memory.bytesFrom]
  | succ n ih =>
    cases bs with
    | nil => simpa using fun h => absurd (Memory.bytesFrom_length h) (by simp)
    | cons b rest =>
      have hstep : m.bytesFrom a (n + 1) = some (b :: rest) ↔
          m.read a = some b ∧ m.bytesFrom (a + 1) n = some rest := by
        simp only [Memory.bytesFrom]
        cases m.read a <;> cases m.bytesFrom (a + 1) n <;> simp
      rw [hstep, ih, Nat.forall_lt_succ_left]
      simp [Nat.add_assoc, Nat.add_comm 1, and_left_comm]

/-- Settles O21: the input is the `ILEN` bytes from cell 0 on. -/
theorem inputIsTheWrittenPrefix : Obligations.InputIsTheWrittenPrefix := fun s raw => by
  simpa [State.input] using Memory.bytesFrom_eq_some (m := s.ibuf) (a := 0) (n := s.ilen) (bs := raw)

/-- The input has no value exactly when one of its cells is unwritten (R32, R66 (i)). -/
theorem State.input_eq_none {s : State} : s.input = none ↔ ∃ k, k < s.ilen ∧ s.ibuf.read k = none := by
  simpa [State.input] using Memory.bytesFrom_eq_none (m := s.ibuf) (a := 0) (n := s.ilen)

/-- States that agree in `ILEN` and in the cells below it have the same input. -/
theorem State.input_congr {s₁ s₂ : State} (hlen : s₁.ilen = s₂.ilen)
    (hcells : ∀ k, k < s₁.ilen → s₁.ibuf.read k = s₂.ibuf.read k) : s₁.input = s₂.input := by
  rw [State.input, State.input, ← hlen]
  exact Memory.bytesFrom_congr fun k _ hk => hcells k (by omega)

end Sys2Proof.Machine

/-! ## The results of a command

Each of the four operations the commands share is refused without an input; with one it replaces the results by a value
of that input and, for an encoder, of the metadata (R97 steps 4 to 6). Nothing else of the state enters that value. -/

namespace Sys2Proof.Machine

/-- What `CRC32` and `CRC16` leave of the input `raw` (R123, R129). -/
def checksumResults (k : CrcKind) (c : Half) (raw : List Byte) : Results :=
  { Results.output c [] with crcCalc := crcOf k raw }

/-- What `DEC.P` leaves of the input `raw`: an error, or the cut frame with its fields and both checksums (R144, R154,
R164, R174). -/
def decodeResults (p : Protocol) (c : Half) (raw : List Byte) : Results :=
  match decodeBy p raw with
  | .error e => .error c e.bare.code
  | .ok m =>
    { cmd := c
      status := successStatus
      obuf := m.payload
      hbuf := m.header
      x := fieldsBy p m.header
      crcCalc := crcOf (layout p).crcAlgorithm (remainderOf (layout p) raw)
      crcRcvd := rcvdOf (layout p).crcAlgorithm (trailerBytes (layout p) raw) }

/-- What `ENC.P` leaves of the frame its encoder built: the frame and the checksum in its trailer (R146, R156, R166,
R176). -/
def encodeResults (p : Protocol) (c : Half) (frame : List Byte) : Results :=
  { Results.output c frame with
    crcCalc := rcvdOf (layout p).crcAlgorithm (trailerBytes (layout p) frame) }

/-- What `CONV.S.T` leaves of the answer of its conversion (R184, R217). -/
def convertResults (c : Half) : Except CmdError (List Byte) → Results
  | .error e => .error c e.code
  | .ok out => .output c out

section

variable {s : State} {raw : List Byte}

theorem checksumCommand_of_input (h : s.input = some raw) (k : CrcKind) (c : Half) :
    checksumCommand k c s = .next (s.withResults (checksumResults k c raw) s.hidden.draw) := by
  rw [checksumCommand, h]
  rfl

theorem decodeCommand_of_input (h : s.input = some raw) (p : Protocol) (c : Half) :
    decodeCommand (layout p) (decodeBy p) (fieldsBy p) c s =
      .next (s.withResults (decodeResults p c raw) s.hidden.draw) := by
  simp only [decodeCommand, h, decodeResults]
  cases decodeBy p raw <;> rfl

theorem encodeCommand_of_input (h : s.input = some raw) (p : Protocol) (um : Bool) (c : Half) :
    encodeCommand (layout p) (encodeBy p) um c s =
      .next (s.withResults (encodeResults p c (encodeBy p raw (s.metaOf um))) s.hidden.draw) := by
  rw [encodeCommand, h]
  rfl

theorem convertCommand_of_input (h : s.input = some raw) (p q : Protocol) (um : Bool) (c : Half) :
    convertCommand p q um c s =
      .next (s.withResults (convertResults c (convert p q raw (s.metaOf um))) (s.drawUnless (p == q)).hidden) := by
  simp only [convertCommand, h]
  cases convert p q raw (s.metaOf um) <;> cases p == q <;> rfl

end

/-- Every command is refused without an input (R66 (i)). -/
theorem exec_of_input_none {s : State} (h : s.input = none) (i : Instr) : exec i s = .refused .unwrittenInput := by
  rcases exec_shape i s with ⟨k, e⟩ | ⟨p, e⟩ | ⟨p, e⟩ | ⟨p, q, e⟩ <;> rw [e]
  · rw [checksumCommand, h]
  · rw [decodeCommand, h]
  · rw [encodeCommand, h]
  · rw [convertCommand, h]

end Sys2Proof.Machine

/-! ## Results depend on the input alone -/

namespace Sys2Proof.Machine

/-- The 26 commands by family: the two checksums, and `DEC`, `ENC` and `CONV` over the protocols (R98). -/
theorem instr_family (i : Instr) :
    (i = .crc32 ∨ i = .crc16) ∨ (∃ p, i = decInstr p) ∨ (∃ um p, i = encInstr um p) ∨
      (∃ um p q, i = convInstr um p q) := by
  cases i with
  | crc32 => exact .inl (.inl rfl)
  | crc16 => exact .inl (.inr rfl)
  | decAos => exact .inr (.inl ⟨.aos, rfl⟩)
  | decCcsds => exact .inr (.inl ⟨.ccsds, rfl⟩)
  | decPusTm => exact .inr (.inl ⟨.pusTm, rfl⟩)
  | decPusTc => exact .inr (.inl ⟨.pusTc, rfl⟩)
  | encAos um => exact .inr (.inr (.inl ⟨um, .aos, rfl⟩))
  | encCcsds um => exact .inr (.inr (.inl ⟨um, .ccsds, rfl⟩))
  | encPusTm um => exact .inr (.inr (.inl ⟨um, .pusTm, rfl⟩))
  | encPusTc um => exact .inr (.inr (.inl ⟨um, .pusTc, rfl⟩))
  | convAosAos um => exact .inr (.inr (.inr ⟨um, .aos, .aos, rfl⟩))
  | convAosCcsds um => exact .inr (.inr (.inr ⟨um, .aos, .ccsds, rfl⟩))
  | convAosPusTm um => exact .inr (.inr (.inr ⟨um, .aos, .pusTm, rfl⟩))
  | convAosPusTc um => exact .inr (.inr (.inr ⟨um, .aos, .pusTc, rfl⟩))
  | convCcsdsAos um => exact .inr (.inr (.inr ⟨um, .ccsds, .aos, rfl⟩))
  | convCcsdsCcsds um => exact .inr (.inr (.inr ⟨um, .ccsds, .ccsds, rfl⟩))
  | convCcsdsPusTm um => exact .inr (.inr (.inr ⟨um, .ccsds, .pusTm, rfl⟩))
  | convCcsdsPusTc um => exact .inr (.inr (.inr ⟨um, .ccsds, .pusTc, rfl⟩))
  | convPusTmAos um => exact .inr (.inr (.inr ⟨um, .pusTm, .aos, rfl⟩))
  | convPusTmCcsds um => exact .inr (.inr (.inr ⟨um, .pusTm, .ccsds, rfl⟩))
  | convPusTmPusTm um => exact .inr (.inr (.inr ⟨um, .pusTm, .pusTm, rfl⟩))
  | convPusTmPusTc um => exact .inr (.inr (.inr ⟨um, .pusTm, .pusTc, rfl⟩))
  | convPusTcAos um => exact .inr (.inr (.inr ⟨um, .pusTc, .aos, rfl⟩))
  | convPusTcCcsds um => exact .inr (.inr (.inr ⟨um, .pusTc, .ccsds, rfl⟩))
  | convPusTcPusTm um => exact .inr (.inr (.inr ⟨um, .pusTc, .pusTm, rfl⟩))
  | convPusTcPusTc um => exact .inr (.inr (.inr ⟨um, .pusTc, .pusTc, rfl⟩))

theorem exec_decInstr (p : Protocol) (s : State) :
    exec (decInstr p) s = decodeCommand (layout p) (decodeBy p) (fieldsBy p) (encode (decInstr p)) s := by
  cases p <;> rfl

theorem exec_encInstr (um : Bool) (p : Protocol) (s : State) :
    exec (encInstr um p) s = encodeCommand (layout p) (encodeBy p) um (encode (encInstr um p)) s := by
  cases p <;> rfl

theorem exec_convInstr (um : Bool) (p q : Protocol) (s : State) :
    exec (convInstr um p q) s = convertCommand p q um (encode (convInstr um p q)) s := by
  cases p <;> cases q <;> rfl

/-- `ENC.P` reads the metadata of its own protocol, and only with `UM` (R95). -/
@[simp] theorem metaReader_encInstr (um : Bool) (p : Protocol) :
    metaReader (encInstr um p) = if um then some p else none := by
  cases um <;> cases p <;> rfl

/-- A cross conversion reads the metadata of its target, and only with `UM`; a passthrough reads none (R95, R182). -/
@[simp] theorem metaReader_convInstr (um : Bool) (p q : Protocol) :
    metaReader (convInstr um p q) = if p = q then none else if um then some q else none := by
  cases um <;> cases p <;> cases q <;> rfl

/-- An encoder reads no parameter but those of its own protocol (R30, column "read by"). -/
theorem encodeBy_congr {p : Protocol} {m m' : Meta} (h : metaAgree (some p) m m') (payload : List Byte) :
    encodeBy p payload m = encodeBy p payload m' := by
  cases p with
  | aos =>
    obtain ⟨hscid, hvcid⟩ := h
    simp only [encodeBy, encodeAos, hscid, hvcid]
  | ccsds =>
    obtain ⟨hptype, hapid, hseq⟩ := h
    simp only [encodeBy, encodeCcsds, headerCcsds, hptype, hapid, hseq]
  | pusTm =>
    obtain ⟨hsvc, hsubsvc⟩ := h
    simp only [encodeBy, encodePusTm, hsvc, hsubsvc]
  | pusTc =>
    obtain ⟨hsvc, hsubsvc⟩ := h
    simp only [encodeBy, encodePusTc, hsvc, hsubsvc]

/-- Without `UM` an encoder reads no register at all (R95). -/
theorem encodeBy_metaOf_congr {um : Bool} {p : Protocol} {s₁ s₂ : State}
    (h : metaAgree (if um then some p else none) s₁.m s₂.m) (payload : List Byte) :
    encodeBy p payload (s₁.metaOf um) = encodeBy p payload (s₂.metaOf um) := by
  cases um with
  | false => rfl
  | true => exact encodeBy_congr h payload

/-- A conversion reads the metadata only through the encoder of another protocol (R181, R182). -/
theorem convert_congr {p q : Protocol} {m m' : Meta}
    (h : p ≠ q → ∀ payload, encodeBy q payload m = encodeBy q payload m') (raw : List Byte) :
    convert p q raw m = convert p q raw m' := by
  by_cases hpq : p = q
  · subst hpq
    rw [convert_same, convert_same]
  · simp only [convert, h hpq]

/-- Under the same input and the metadata it reads, a command puts the same results in both states. -/
theorem exec_same_results {i : Instr} {s₁ s₂ : State} {raw : List Byte} (h₁ : s₁.input = some raw)
    (h₂ : s₂.input = some raw) (hm : metaAgree (metaReader i) s₁.m s₂.m) :
    ∃ r hid₁ hid₂, exec i s₁ = .next (s₁.withResults r hid₁) ∧ exec i s₂ = .next (s₂.withResults r hid₂) := by
  rcases instr_family i with (rfl | rfl) | ⟨p, rfl⟩ | ⟨um, p, rfl⟩ | ⟨um, p, q, rfl⟩
  · exact ⟨_, _, _, checksumCommand_of_input h₁ .crc32 _, checksumCommand_of_input h₂ .crc32 _⟩
  · exact ⟨_, _, _, checksumCommand_of_input h₁ .crc16 _, checksumCommand_of_input h₂ .crc16 _⟩
  · rw [exec_decInstr, exec_decInstr]
    exact ⟨_, _, _, decodeCommand_of_input h₁ p _, decodeCommand_of_input h₂ p _⟩
  · rw [metaReader_encInstr] at hm
    rw [exec_encInstr, exec_encInstr, encodeCommand_of_input h₁, encodeCommand_of_input h₂,
      encodeBy_metaOf_congr hm]
    exact ⟨_, _, _, rfl, rfl⟩
  · have hout : convert p q raw (s₁.metaOf um) = convert p q raw (s₂.metaOf um) := by
      refine convert_congr (fun hpq => encodeBy_metaOf_congr ?_) raw
      rwa [metaReader_convInstr, if_neg hpq] at hm
    rw [exec_convInstr, exec_convInstr, convertCommand_of_input h₁, convertCommand_of_input h₂, hout]
    exact ⟨_, _, _, rfl, rfl⟩

/-- Settles O23: the two states have the same input, so either both commands are refused or both run on it. -/
theorem resultsDependOnlyOnTheInput : Obligations.ResultsDependOnlyOnTheInput := by
  intro i s₁ s₂ hlen hcells hm
  have hin := State.input_congr hlen hcells
  cases h₁ : s₁.input with
  | none => exact .inr ⟨exec_of_input_none h₁ i, exec_of_input_none (hin ▸ h₁) i⟩
  | some raw =>
    obtain ⟨r, hid₁, hid₂, e₁, e₂⟩ := exec_same_results h₁ (hin ▸ h₁) hm
    exact .inl ⟨_, _, e₁, e₂, rfl⟩

end Sys2Proof.Machine

/-! ## What every command does and leaves unchanged -/

namespace Sys2Proof.Machine

/-- Settles O20: a command that goes on replaces the results and the hidden registers alone. -/
theorem commandsNeverChangeInputState : Obligations.CommandsNeverChangeInputState := by
  intro i s t h
  rw [exec_next_eq_withResults h]
  exact ⟨rfl, rfl, rfl, rfl, rfl, fun _ => rfl⟩

/-- The results of a completed command with word `c`, ended normally or by an error: `CMD` holds `c`, `DONE` is set and
`STATUS` is one of the values of R24. -/
structure Results.Completed (c : Half) (r : Results) : Prop where
  cmd : r.cmd = c
  done : r.status.getLsbD 8 = true
  status : legalStatus r.status

/-- `DONE` is bit 8 of every status a command writes (R24). -/
@[simp] theorem statusOf_done (cause err : BitVec 4) : (statusOf cause err).getLsbD 8 = true := by
  simp only [statusOf, BitVec.getLsbD_append]
  rfl

theorem Results.completed_error (c : Half) (e : CmdError) : (Results.error c e.code).Completed c :=
  ⟨rfl, statusOf_done _ _, legalStatus_code e⟩

theorem Results.completed_of_success {c : Half} {r : Results} (hcmd : r.cmd = c) (hstatus : r.status = successStatus) :
    r.Completed c where
  cmd := hcmd
  done := by rw [hstatus, successStatus, statusOf_done]
  status := .inr (.inl hstatus)

theorem decodeResults_completed (p : Protocol) (c : Half) (raw : List Byte) :
    (decodeResults p c raw).Completed c := by
  unfold decodeResults
  cases decodeBy p raw with
  | error e => exact Results.completed_error c e.bare
  | ok m => exact Results.completed_of_success rfl rfl

theorem convertResults_completed (c : Half) (answer : Except CmdError (List Byte)) :
    (convertResults c answer).Completed c := by
  cases answer with
  | error e => exact Results.completed_error c e
  | ok out => exact Results.completed_of_success rfl rfl

/-- Every command completes on every input (R32, R253). -/
theorem exec_completes {s : State} {raw : List Byte} (h : s.input = some raw) (i : Instr) :
    ∃ r hid, exec i s = .next (s.withResults r hid) ∧ r.Completed (encode i) := by
  rcases exec_shape i s with ⟨k, e⟩ | ⟨p, e⟩ | ⟨p, e⟩ | ⟨p, q, e⟩ <;> rw [e]
  · exact ⟨_, _, checksumCommand_of_input h k _, Results.completed_of_success rfl rfl⟩
  · exact ⟨_, _, decodeCommand_of_input h p _, decodeResults_completed p _ raw⟩
  · exact ⟨_, _, encodeCommand_of_input h p _ _, Results.completed_of_success rfl rfl⟩
  · exact ⟨_, _, convertCommand_of_input h p q _ _, convertResults_completed _ _⟩

/-- Settles O22: a command is refused exactly when it has no input, and completes on every other. -/
theorem commandCompletesOnEveryWrittenInput : Obligations.CommandCompletesOnEveryWrittenInput := by
  refine fun i s => ⟨fun hcell => exec_of_input_none (State.input_eq_none.mpr hcell) i, fun hwritten => ?_⟩
  have hsome : s.input ≠ none := by
    rw [Ne, State.input_eq_none]
    rintro ⟨k, hk, hnone⟩
    exact hwritten k hk hnone
  obtain ⟨raw, hraw⟩ := Option.ne_none_iff_exists'.mp hsome
  obtain ⟨r, hid, e, hr⟩ := exec_completes hraw i
  exact ⟨_, e, hr.cmd, hr.done, hr.status⟩

end Sys2Proof.Machine

/-! ## Host accesses

What a write of an input register does, and what no access but a command write touches. -/

namespace Sys2Proof.Machine

/-- The `REG` map read forwards: an offset leads to a register exactly when it is that register's own (R61). -/
theorem regAt_eq_ok {off : Nat} {r : Reg} : regAt off = .ok r ↔ off = regOffset r := by
  refine ⟨fun h => ?_, fun h => h ▸ regAt_regOffset r⟩
  unfold regAt at h
  split at h
  · cases h
  · split at h <;> cases h <;> rfl

/-- A step whose event is a 4-byte write at a register's offset writes that register (R61, R64). -/
theorem step_write_reg {s : State} {r : Reg} {v : Word} {rest : List PortEvent}
    (hp : s.port = .access (.write .reg (regOffset r) 4 v) :: rest) :
    step s = writeReg r v { s with port := rest } := by
  rw [step_event hp]
  simp only [portEvent, hostAccess, memWrite, if_true, regAt_regOffset]

/-- Settles O13: each of the seven rows is the assignment of one name of `MetaName`. -/
theorem metadataWriteTruncates : Obligations.MetadataWriteTruncates := by
  intro s off v m' rest hrow hp
  have hname : ∃ n, off = regOffset (metaReg n) ∧ m' = metaAssign s.m (n, v) := by
    simp only [List.mem_cons, List.not_mem_nil, or_false, Prod.mk.injEq] at hrow
    rcases hrow with h | h | h | h | h | h | h
    · exact ⟨.scid, h⟩
    · exact ⟨.vcid, h⟩
    · exact ⟨.svc, h⟩
    · exact ⟨.subsvc, h⟩
    · exact ⟨.ptype, h⟩
    · exact ⟨.apid, h⟩
    · exact ⟨.seq, h⟩
  obtain ⟨n, rfl, rfl⟩ := hname
  rw [step_write_reg hp, writeReg_metaReg]

/-- Settles O14: the two sides of the test a write of `ILEN` makes (R25). -/
theorem inputLengthWriteIsBounded : Obligations.InputLengthWriteIsBounded := by
  intro s v rest hp
  rw [step_write_reg (r := .ilen) hp]
  exact ⟨fun hle => if_pos hle, fun hlt => if_neg (Nat.not_le.mpr hlt)⟩

/-- An access that is no command write leaves the results and the hidden registers alone (R20). -/
theorem hostAccess_keeps_results {a : Access} {s t : State} (ha : ∀ w, a ≠ .write .reg 0x00 4 w)
    (h : hostAccess a s = .next t) : t.results = s.results ∧ t.hidden = s.hidden := by
  cases a with
  | read sp addr n =>
    obtain ⟨v, -, rfl⟩ := hostAccess_read_next h
    exact ⟨rfl, rfl⟩
  | write sp addr n v =>
    rcases memWrite_next h with ⟨r, rfl, rfl, hr, hw⟩ | ⟨-, -, -, rfl⟩
    · rcases writeReg_next hw with ⟨rfl, -⟩ | ⟨-, -, rfl⟩ | ⟨-, -, m, rfl⟩
      · exact absurd (regAt_eq_ok.mp hr ▸ rfl) (ha v)
      · exact ⟨rfl, rfl⟩
      · exact ⟨rfl, rfl⟩
    · exact ⟨rfl, rfl⟩

/-- Settles O19: no access but a command write reaches the results, and a read only adds its reply. -/
theorem onlyCommandWritesChangeResults : Obligations.OnlyCommandWritesChangeResults := by
  intro s t a rest hp h
  rw [step_event hp, portEvent] at h
  constructor
  · intro ha
    have hkeeps := hostAccess_keeps_results ha h
    exact hkeeps
  · rintro sp k n rfl
    obtain ⟨v, -, rfl⟩ := hostAccess_read_next h
    exact ⟨v, rfl⟩

end Sys2Proof.Machine

/-! ## The state after reset -/

namespace Sys2Proof.Machine

/-- Settles O1: the table of R48, row by row. -/
theorem resetLeavesNoInputAndNoResult : Obligations.ResetLeavesNoInputAndNoResult :=
  ⟨rfl, rfl, rfl, rfl, rfl, rfl, rfl, rfl, rfl, fun _ => rfl⟩

end Sys2Proof.Machine

/-! ## What an access reads and writes

The replies of the reads (R61 to R64), the cells and the registers of the writes, and the accesses that are refused
(R66). -/

namespace Sys2Proof.Machine

/-- A step whose event is a read that has a value adds the reply, and nothing else (R65). -/
theorem step_read {s : State} {sp : Space} {a n : Nat} {v : Word} {rest : List PortEvent}
    (hp : s.port = .access (.read sp a n) :: rest) (hv : memRead sp a n s = .ok v) :
    step s = .next { s with port := rest, replies := s.replies ++ [v] } := by
  -- no read looks at the port
  have hv' : memRead sp a n { s with port := rest } = .ok v := hv
  simp only [step_event hp, portEvent, hostAccess, hv']

/-- A 4-byte read at a register's offset has that register's value (R61, R64). -/
@[simp] theorem memRead_regOffset (r : Reg) (s : State) : memRead .reg (regOffset r) 4 s = .ok (readReg r s) := by
  simp only [memRead, if_true, regAt_regOffset]

/-- The registers in the order of their offsets (R61). -/
def mappedRegs : List Reg :=
  [.cmd, .status, .ilen, .olen, .hlen, .crcCalc, .crcRcvd, .mScid, .mVcid, .mSvc, .mSubsvc, .mPtype, .mApid, .mSeq,
    .xScid, .xVcid, .xSvc, .xSubsvc, .xTsmark, .xPtype, .xApid, .xPlen]

/-- Settles O12: each of the 22 rows is the offset and the value of one register. -/
theorem registerReadReturnsTheRegister : Obligations.RegisterReadReturnsTheRegister := by
  intro s off v rest hilen holen hhlen hrow hp
  rw [← lengthWord_of_lt hilen, ← lengthWord_of_lt holen, ← lengthWord_of_lt hhlen] at hrow
  have hmap : (off, v) ∈ mappedRegs.map fun r => (regOffset r, readReg r s) := hrow
  obtain ⟨r, -, hr⟩ := List.mem_map.mp hmap
  obtain ⟨rfl, rfl⟩ := Prod.mk.inj hr
  exact step_read hp (memRead_regOffset r s)

/-- The registers a host can only read (R61, R64). -/
def readOnlyRegs : List Reg :=
  [.status, .olen, .hlen, .crcCalc, .crcRcvd, .xScid, .xVcid, .xSvc, .xSubsvc, .xTsmark, .xPtype, .xApid, .xPlen]

/-- A write of a read-only register has no effect on any state (R64). -/
theorem writeReg_of_readOnly {r : Reg} (hr : r ∈ readOnlyRegs) (v : Word) (s : State) : writeReg r v s = .next s := by
  cases r with
  | cmd | ilen | mScid | mVcid | mSvc | mSubsvc | mPtype | mApid | mSeq => exact absurd hr (by decide)
  | _ => rfl

/-- Settles O15: each of the 13 offsets is that of a read-only register. -/
theorem readOnlyRegisterIgnoresWrites : Obligations.ReadOnlyRegisterIgnoresWrites := by
  intro s off v rest hoff hp
  have hmap : off ∈ readOnlyRegs.map regOffset := hoff
  obtain ⟨r, hr, rfl⟩ := List.mem_map.mp hmap
  rw [step_write_reg hp, writeReg_of_readOnly hr]

/-- A 1-byte write of a cell below `CAP` writes that cell with the byte on the port (R62). -/
theorem step_write_ibuf {s : State} {i : Nat} {v : Word} {rest : List PortEvent} (hi : i < s.cap)
    (hp : s.port = .access (.write .ibuf i 1 v) :: rest) :
    step s = .next { s with port := rest, ibuf := s.ibuf.write i (v.setWidth 8) } := by
  simp only [step_event hp, portEvent, hostAccess, memWrite, writeIbuf, hi, if_true]

/-- A 1-byte read of a written cell has its byte (R62). -/
theorem memRead_ibuf_of_written {s : State} {i : Nat} {b : Byte} (hi : i < s.cap) (hb : s.ibuf.read i = some b) :
    memRead .ibuf i 1 s = .ok (b.setWidth 32) := by
  simp only [memRead, readIbuf, hi, hb, if_true]

/-- Settles O16: read after write, at the cell itself and at every other. -/
theorem inputCellHoldsWhatWasWritten : Obligations.InputCellHoldsWhatWasWritten := by
  refine fun s i rest hi => ⟨fun b hp => ?_, fun b hp hb => step_read hp (memRead_ibuf_of_written hi hb)⟩
  have hbyte : (b.setWidth 32).setWidth 8 = b := by simp
  refine ⟨s.ibuf.write i b, ?_, Memory.read_write_same _ i b, fun k hk => Memory.read_write_other b hk⟩
  rw [step_write_ibuf hi hp, hbyte]

/-- A read of a result buffer has the byte at its index (R63). -/
theorem bufferByte_of_getElem? {buf : List Byte} {i : Nat} {b : Byte} (hb : buf[i]? = some b) (beyond : Refusal) :
    bufferByte buf i beyond = .ok (b.setWidth 32) := by
  simp only [bufferByte, hb]

/-- Settles O17, for `OBUF` and for `HBUF`. -/
theorem resultBufferReadReturnsItsByte : Obligations.ResultBufferReadReturnsItsByte := fun _ _ _ _ =>
  ⟨fun hb hp => step_read hp (bufferByte_of_getElem? hb _), fun hb hp => step_read hp (bufferByte_of_getElem? hb _)⟩

/-! ### The refusals of R66

For each kind of access, what the model refuses and what the list forbids are the same condition on the block. -/

/-- The `REG` map as R66 (b) describes it: the multiples of 4 up to `0x5C`, but for the two reserved ones. -/
theorem exists_regOffset_iff {off : Nat} :
    (∃ r, off = regOffset r) ↔ off % 4 = 0 ∧ off ≠ 0x1C ∧ off ≠ 0x3C ∧ off ≤ 0x5C := by
  constructor
  · rintro ⟨r, rfl⟩
    cases r <;> decide
  · rintro ⟨hmod, h1C, h3C, hle⟩
    have hrow : ∀ k < 24, 4 * k ≠ 0x1C → 4 * k ≠ 0x3C → ∃ r ∈ mappedRegs, 4 * k = regOffset r := by decide
    obtain ⟨r, -, hr⟩ := hrow (off / 4) (by omega) (by omega) (by omega)
    exact ⟨r, by omega⟩

/-- An offset has no register exactly when it is unaligned, reserved, or above the map (R61, R66 (b)). -/
theorem regAt_eq_error_iff {off : Nat} :
    (∃ e, regAt off = .error e) ↔ off % 4 ≠ 0 ∨ off = 0x1C ∨ off = 0x3C ∨ 0x5C < off := by
  have hnone : (∃ e, regAt off = .error e) ↔ ¬ ∃ r, off = regOffset r := by
    simp only [← regAt_eq_ok]
    cases regAt off <;> simp
  rw [hnone, exists_regOffset_iff]
  omega

/-- A command is refused exactly when its input has an unwritten cell (R66 (i)). -/
theorem exec_refused_iff {i : Instr} {s : State} :
    (∃ r, exec i s = .refused r) ↔ ∃ k, k < s.ilen ∧ s.ibuf.read k = none := by
  rw [← State.input_eq_none]
  constructor
  · rintro ⟨r, hr⟩
    by_contra hsome
    obtain ⟨raw, hraw⟩ := Option.ne_none_iff_exists'.mp hsome
    obtain ⟨res, hid, e, -⟩ := exec_completes hraw i
    rw [e] at hr
    cases hr
  · exact fun hnone => ⟨_, exec_of_input_none hnone i⟩

/-- A write of `CMD` is refused exactly when it selects a command that is: a rejected word never is (R97). -/
theorem writeCmd_refused_iff {w : Word} {s : State} :
    (∃ r, writeCmd w s = .refused r) ↔ ∃ i k, decode w = .ok i ∧ k < s.ilen ∧ s.ibuf.read k = none := by
  rcases writeCmd_cases w s with ⟨hd, e⟩ | ⟨hd, e⟩ | ⟨i, hd, e⟩
  · simp [hd, e]
  · simp [hd, e]
  · rw [e, exec_refused_iff]
    simp [hd]

/-- A write of a register is refused for two registers alone: `ILEN` beyond `CAP`, and `CMD` (R66 (a), (i)). -/
theorem writeReg_refused_iff {r : Reg} {v : Word} {s : State} :
    (∃ e, writeReg r v s = .refused e) ↔
      (r = .ilen ∧ s.cap < v.toNat) ∨ (r = .cmd ∧ ∃ e, writeCmd v s = .refused e) := by
  cases r with
  | cmd => simp [writeReg]
  | ilen =>
    by_cases hv : v.toNat ≤ s.cap
    · simp [writeReg, writeIlen, hv]
    · simp [writeReg, writeIlen, hv, Nat.lt_of_not_le hv]
  | _ => simp [writeReg]

/-- A size that is not its space's own (R66 (h)). -/
theorem sizeOk_eq_false_iff {a : Access} : a.sizeOk = false ↔ a.size ≠ if a.space = .reg then 4 else 1 := by
  cases h : a.space <;> simp [Access.sizeOk, h]

section

variable {s : State} {i n : Nat} {v : Word}

/-- R66 on a read of `REG`: (b) and (h). -/
theorem forbidden_read_reg_iff :
    Forbidden s (.read .reg i n) ↔ n ≠ 4 ∨ (i % 4 ≠ 0 ∨ i = 0x1C ∨ i = 0x3C ∨ 0x5C < i) where
  mp
    | .readUnlisted hi => .inr hi
    | .wrongSize hn => .inl (sizeOk_eq_false_iff.mp hn)
  mpr
    | .inl hn => .wrongSize (sizeOk_eq_false_iff.mpr hn)
    | .inr hi => .readUnlisted hi

/-- R66 on a read of `IBUF`: (c), (d) and (h). -/
theorem forbidden_read_ibuf_iff : Forbidden s (.read .ibuf i n) ↔ n ≠ 1 ∨ s.cap ≤ i ∨ s.ibuf.read i = none := by
  constructor
  · intro h
    cases h with
    | ibufReadBeyond hi => exact .inr (.inl hi)
    | unwrittenCell hi => exact .inr (.inr hi)
    | wrongSize hn => exact .inl (sizeOk_eq_false_iff.mp hn)
  · intro h
    rcases eq_or_ne n 1 with rfl | hn
    · rcases h with hn | hi | hi
      · exact absurd rfl hn
      · exact .ibufReadBeyond hi
      · exact .unwrittenCell hi
    · exact .wrongSize (sizeOk_eq_false_iff.mpr hn)

/-- R66 on a read of `OBUF`: (e) and (h). -/
theorem forbidden_read_obuf_iff : Forbidden s (.read .obuf i n) ↔ n ≠ 1 ∨ s.obuf.length ≤ i where
  mp
    | .obufBeyond hi => .inr hi
    | .wrongSize hn => .inl (sizeOk_eq_false_iff.mp hn)
  mpr
    | .inl hn => .wrongSize (sizeOk_eq_false_iff.mpr hn)
    | .inr hi => .obufBeyond hi

/-- R66 on a read of `HBUF`: (f) and (h). -/
theorem forbidden_read_hbuf_iff : Forbidden s (.read .hbuf i n) ↔ n ≠ 1 ∨ s.hbuf.length ≤ i where
  mp
    | .hbufBeyond hi => .inr hi
    | .wrongSize hn => .inl (sizeOk_eq_false_iff.mp hn)
  mpr
    | .inl hn => .wrongSize (sizeOk_eq_false_iff.mpr hn)
    | .inr hi => .hbufBeyond hi

/-- R66 on a write of `IBUF`: (c) and (h). -/
theorem forbidden_write_ibuf_iff : Forbidden s (.write .ibuf i n v) ↔ n ≠ 1 ∨ s.cap ≤ i where
  mp
    | .ibufWriteBeyond hi => .inr hi
    | .wrongSize hn => .inl (sizeOk_eq_false_iff.mp hn)
  mpr
    | .inl hn => .wrongSize (sizeOk_eq_false_iff.mpr hn)
    | .inr hi => .ibufWriteBeyond hi

/-- R66 on a write of `REG`: (b), (h), and at size 4 (a) and (i). -/
theorem forbidden_write_reg_iff :
    Forbidden s (.write .reg i n v) ↔
      n ≠ 4 ∨ (i % 4 ≠ 0 ∨ i = 0x1C ∨ i = 0x3C ∨ 0x5C < i) ∨
        (i = regOffset .ilen ∧ s.cap < v.toNat) ∨
        (i = regOffset .cmd ∧ ∃ c k, decode v = .ok c ∧ k < s.ilen ∧ s.ibuf.read k = none) := by
  constructor
  · intro h
    cases h with
    | ilenBeyondCapacity hv => exact .inr (.inr (.inl ⟨rfl, hv⟩))
    | writeUnlisted hi => exact .inr (.inl hi)
    | wrongSize hn => exact .inl (sizeOk_eq_false_iff.mp hn)
    | unwrittenInput hd hk hcell => exact .inr (.inr (.inr ⟨rfl, _, _, hd, hk, hcell⟩))
  · intro h
    rcases eq_or_ne n 4 with rfl | hn
    · rcases h with hn | hi | ⟨rfl, hv⟩ | ⟨rfl, c, k, hd, hk, hcell⟩
      · exact absurd rfl hn
      · exact .writeUnlisted hi
      · exact .ilenBeyondCapacity hv
      · exact .unwrittenInput hd hk hcell
    · exact .wrongSize (sizeOk_eq_false_iff.mpr hn)

end

/-- A read of `IBUF` has no value beyond `CAP` and at an unwritten cell (R66 (c), (d)). -/
theorem readIbuf_refused_iff {i : Nat} {s : State} :
    (∃ e, readIbuf i s = .error e) ↔ s.cap ≤ i ∨ s.ibuf.read i = none := by
  by_cases hi : i < s.cap
  · cases hb : s.ibuf.read i <;> simp [readIbuf, hi, hb]
  · simp [readIbuf, hi, Nat.le_of_not_lt hi]

/-- A result buffer has no byte at its length or above (R66 (e), (f)). -/
theorem bufferByte_refused_iff {buf : List Byte} {i : Nat} {beyond : Refusal} :
    (∃ e, bufferByte buf i beyond = .error e) ↔ buf.length ≤ i := by
  rw [← List.getElem?_eq_none_iff]
  cases hb : buf[i]? <;> simp [bufferByte, hb]

/-- A read has no value exactly when R66 lists it. -/
theorem memRead_refused_iff {sp : Space} {i n : Nat} {s : State} :
    (∃ e, memRead sp i n s = .error e) ↔ Forbidden s (.read sp i n) := by
  cases sp with
  | reg =>
    rw [forbidden_read_reg_iff, ← regAt_eq_error_iff]
    by_cases hn : n = 4
    · cases hr : regAt i <;> simp [memRead, hn, hr]
    · simp [memRead, hn]
  | ibuf =>
    rw [forbidden_read_ibuf_iff, ← readIbuf_refused_iff]
    by_cases hn : n = 1 <;> simp [memRead, hn]
  | obuf =>
    rw [forbidden_read_obuf_iff, ← bufferByte_refused_iff (beyond := .obufOutOfRange)]
    by_cases hn : n = 1 <;> simp [memRead, hn]
  | hbuf =>
    rw [forbidden_read_hbuf_iff, ← bufferByte_refused_iff (beyond := .hbufOutOfRange)]
    by_cases hn : n = 1 <;> simp [memRead, hn]

/-- A write is refused exactly when R66 lists it. -/
theorem memWrite_refused_iff {sp : Space} {i n : Nat} {v : Word} {s : State} :
    (∃ e, memWrite sp i n v s = .refused e) ↔ Forbidden s (.write sp i n v) := by
  cases sp with
  | reg =>
    rw [forbidden_write_reg_iff, ← regAt_eq_error_iff, ← writeCmd_refused_iff, ← regAt_eq_ok, ← regAt_eq_ok]
    by_cases hn : n = 4
    · cases hr : regAt i with
      | error e => simp [memWrite, hn, hr]
      | ok r => simp [memWrite, hn, hr, writeReg_refused_iff]
    · simp [memWrite, hn]
  | ibuf =>
    rw [forbidden_write_ibuf_iff]
    by_cases hn : n = 1
    · by_cases hi : i < s.cap
      · simp [memWrite, writeIbuf, hn, hi]
      · simp [memWrite, writeIbuf, hn, hi, Nat.le_of_not_lt hi]
    · simp [memWrite, hn]
  | obuf => exact ⟨fun _ => .obufWrite, fun _ => ⟨_, rfl⟩⟩
  | hbuf => exact ⟨fun _ => .hbufWrite, fun _ => ⟨_, rfl⟩⟩

/-- A host access is refused exactly when R66 lists it. -/
theorem hostAccess_refused_iff {a : Access} {s : State} : (∃ r, hostAccess a s = .refused r) ↔ Forbidden s a := by
  cases a with
  | read sp i n =>
    rw [← memRead_refused_iff]
    cases h : memRead sp i n s <;> simp [hostAccess, h]
  | write sp i n v => exact memWrite_refused_iff

/-- What R66 lists depends on the block alone, not on what else waits at the port. -/
theorem forbidden_with_port_iff {s : State} {a : Access} {rest : List PortEvent} :
    Forbidden { s with port := rest } a ↔ Forbidden s a := by
  cases a with
  | read sp i n =>
    cases sp with
    | reg => simp only [forbidden_read_reg_iff]
    | ibuf => simp only [forbidden_read_ibuf_iff]
    | obuf => simp only [forbidden_read_obuf_iff]
    | hbuf => simp only [forbidden_read_hbuf_iff]
  | write sp i n v =>
    cases sp with
    | reg => simp only [forbidden_write_reg_iff]
    | ibuf => simp only [forbidden_write_ibuf_iff]
    | obuf => exact iff_of_true .obufWrite .obufWrite
    | hbuf => exact iff_of_true .hbufWrite .hbufWrite

/-- Settles O18: the step is the access on the block, and R66 looks at the block alone. -/
theorem accessRefusedExactlyWhenForbidden : Obligations.AccessRefusedExactlyWhenForbidden := by
  intro s a rest hp
  rw [step_event hp, portEvent, hostAccess_refused_iff, forbidden_with_port_iff]

end Sys2Proof.Machine

/-! ## The command word

The fields of a word against the word built from them (R90, R110), the five shapes of a legal word (R91, R94), and the
three outcomes of decoding (R97). -/

namespace Sys2Proof.Machine

/-- What a host writes to `CMD` for a command word with these fields: the upper half is 0 (R90, R110). -/
def writtenWord (op : BitVec 4) (um : Bool) (src tgt : BitVec 4) : Word := (commandWord op um src tgt).setWidth 32

section

variable (op : BitVec 4) (um : Bool) (src tgt : BitVec 4)

/-- The fields do not overlap, so `OP << 12 | UM << 8 | SRC << 4 | TGT` is a sum (R110). -/
theorem toNat_writtenWord :
    (writtenWord op um src tgt).toNat = op.toNat * 4096 + um.toNat * 256 + src.toNat * 16 + tgt.toNat := by
  have hum : um.toNat < 2 ^ 1 := Bool.toNat_lt um
  simp only [writtenWord, commandWord, BitVec.toNat_setWidth, BitVec.toNat_append, BitVec.toNat_ofBool]
  rw [← Nat.shiftLeft_add_eq_or_of_lt tgt.isLt, ← Nat.shiftLeft_add_eq_or_of_lt src.isLt,
    ← Nat.shiftLeft_add_eq_or_of_lt hum, ← Nat.shiftLeft_add_eq_or_of_lt (0 : BitVec 3).isLt]
  simp only [Nat.shiftLeft_eq, BitVec.ofNat_eq_ofNat, BitVec.toNat_zero]
  omega

/-- A field of the word, read off that sum. -/
theorem toNat_extract_writtenWord (start len : Nat) :
    ((writtenWord op um src tgt).extractLsb' start len).toNat =
      (op.toNat * 4096 + um.toNat * 256 + src.toNat * 16 + tgt.toNat) / 2 ^ start % 2 ^ len := by
  rw [BitVec.extractLsb'_toNat, toNat_writtenWord, Nat.shiftRight_eq_div_pow]

@[simp] theorem upperField_writtenWord : upperField (writtenWord op um src tgt) = 0 := by
  have hum := Bool.toNat_lt um
  refine BitVec.eq_of_toNat_eq ?_
  rw [upperField, toNat_extract_writtenWord, BitVec.ofNat_eq_ofNat, BitVec.toNat_zero]
  omega

@[simp] theorem opField_writtenWord : opField (writtenWord op um src tgt) = op := by
  have hum := Bool.toNat_lt um
  refine BitVec.eq_of_toNat_eq ?_
  rw [opField, toNat_extract_writtenWord]
  omega

@[simp] theorem rsvField_writtenWord : rsvField (writtenWord op um src tgt) = 0 := by
  have hum := Bool.toNat_lt um
  refine BitVec.eq_of_toNat_eq ?_
  rw [rsvField, toNat_extract_writtenWord, BitVec.ofNat_eq_ofNat, BitVec.toNat_zero]
  omega

@[simp] theorem umField_writtenWord : umField (writtenWord op um src tgt) = um := by
  rw [umField, BitVec.getLsbD, toNat_writtenWord, Nat.testBit_eq_decide_div_mod_eq]
  cases um <;> simp <;> omega

@[simp] theorem srcField_writtenWord : srcField (writtenWord op um src tgt) = src := by
  refine BitVec.eq_of_toNat_eq ?_
  rw [srcField, toNat_extract_writtenWord]
  omega

@[simp] theorem tgtField_writtenWord : tgtField (writtenWord op um src tgt) = tgt := by
  refine BitVec.eq_of_toNat_eq ?_
  rw [tgtField, toNat_extract_writtenWord]
  omega

/-- The low nine bits are `UM`, `SRC` and `TGT`. -/
theorem lowNine_writtenWord :
    (writtenWord op um src tgt).extractLsb' 0 9 = 0 ↔ um = false ∧ src = 0 ∧ tgt = 0 := by
  have hum := Bool.toNat_lt um
  simp only [← BitVec.toNat_inj, toNat_extract_writtenWord, BitVec.ofNat_eq_ofNat, BitVec.toNat_zero,
    ← Bool.toNat_eq_zero]
  omega

end

/-- A word with nothing outside the four fields is built from them: no bit is dropped (R90). -/
theorem exists_writtenWord {w : Word} (hupper : upperField w = 0) (hrsv : rsvField w = 0) :
    ∃ op um src tgt, w = writtenWord op um src tgt := by
  refine ⟨opField w, umField w, srcField w, tgtField w, ?_⟩
  have hum : (umField w).toNat = w.toNat / 2 ^ 8 % 2 := Nat.toNat_testBit ..
  simp only [upperField, rsvField, opField, srcField, tgtField, ← BitVec.toNat_inj, BitVec.extractLsb'_toNat,
    Nat.shiftRight_eq_div_pow, BitVec.ofNat_eq_ofNat, BitVec.toNat_zero, toNat_writtenWord, hum] at *
  omega

/-- The words of R94, by operation (R91). -/
inductive LegalShape : Word → Prop where
  | crc32 : LegalShape (writtenWord 1 false 0 0)
  | crc16 : LegalShape (writtenWord 2 false 0 0)
  | dec (src : BitVec 4) : LegalShape (writtenWord 3 false src 0)
  | enc (um : Bool) (tgt : BitVec 4) : LegalShape (writtenWord 4 um 0 tgt)
  | conv (um : Bool) (src tgt : BitVec 4) : LegalShape (writtenWord 5 um src tgt)

/-- R94 as the obligations spell it out, in the decoder's names for the fields. -/
theorem specLegal_iff_fields {w : Word} :
    SpecLegal w ↔ upperField w = 0 ∧ rsvField w = 0 ∧
      ((opField w = 1 ∨ opField w = 2) ∧ w.extractLsb' 0 9 = 0 ∨
        opField w = 3 ∧ umField w = false ∧ tgtField w = 0 ∨
        opField w = 4 ∧ srcField w = 0 ∨
        opField w = 5) :=
  Iff.rfl

theorem specLegal_iff_shape {w : Word} : SpecLegal w ↔ LegalShape w := by
  rw [specLegal_iff_fields]
  constructor
  · rintro ⟨hupper, hrsv, hop⟩
    obtain ⟨op, um, src, tgt, rfl⟩ := exists_writtenWord hupper hrsv
    simp only [opField_writtenWord, umField_writtenWord, srcField_writtenWord, tgtField_writtenWord,
      lowNine_writtenWord] at hop
    rcases hop with ⟨rfl | rfl, rfl, rfl, rfl⟩ | ⟨rfl, rfl, rfl⟩ | ⟨rfl, rfl⟩ | rfl
    · exact .crc32
    · exact .crc16
    · exact .dec src
    · exact .enc um tgt
    · exact .conv um src tgt
  · intro h
    cases h with
    | crc32 => decide
    | crc16 => decide
    | dec | enc | conv => simp

/-- What the decoder takes as legal, operation by operation. -/
theorem legal_iff_shape {w : Word} : legal w = true ↔ LegalShape w := by
  constructor
  · intro h
    simp only [legal, Bool.and_eq_true, beq_iff_eq] at h
    obtain ⟨⟨hupper, hrsv⟩, hop⟩ := h
    obtain ⟨op, um, src, tgt, rfl⟩ := exists_writtenWord hupper hrsv
    simp only [opField_writtenWord, umField_writtenWord, srcField_writtenWord, tgtField_writtenWord] at hop
    split at hop
    · next hop1 =>
      obtain rfl : op = 1 := BitVec.eq_of_toNat_eq hop1
      obtain ⟨⟨rfl, rfl⟩, rfl⟩ : (um = false ∧ src = 0) ∧ tgt = 0 := by simpa using hop
      exact .crc32
    · next hop2 =>
      obtain rfl : op = 2 := BitVec.eq_of_toNat_eq hop2
      obtain ⟨⟨rfl, rfl⟩, rfl⟩ : (um = false ∧ src = 0) ∧ tgt = 0 := by simpa using hop
      exact .crc16
    · next hop3 =>
      obtain rfl : op = 3 := BitVec.eq_of_toNat_eq hop3
      obtain ⟨rfl, rfl⟩ : um = false ∧ tgt = 0 := by simpa using hop
      exact .dec src
    · next hop4 =>
      obtain rfl : op = 4 := BitVec.eq_of_toNat_eq hop4
      obtain rfl : src = 0 := by simpa using hop
      exact .enc um tgt
    · next hop5 =>
      obtain rfl : op = 5 := BitVec.eq_of_toNat_eq hop5
      exact .conv um src tgt
    · cases hop
  · intro h
    cases h <;> simp [legal]

/-- The decoder's test of legality is the one R94 spells out. -/
theorem legal_iff_specLegal {w : Word} : legal w = true ↔ SpecLegal w :=
  legal_iff_shape.trans specLegal_iff_shape.symm

/-- The decoder's test of the used tags is the one R96 spells out. -/
theorem unknownTag_iff_specUnknownTag {w : Word} : unknownTag w = true ↔ SpecUnknownTag w := by
  have hfields : SpecUnknownTag w ↔ opField w = 3 ∧ 3 < (srcField w).toNat ∨
      opField w = 4 ∧ 3 < (tgtField w).toNat ∨
      opField w = 5 ∧ (3 < (srcField w).toNat ∨ 3 < (tgtField w).toNat) := Iff.rfl
  rw [hfields, unknownTag]
  simp only [← BitVec.toNat_inj]
  split
  · next hop => simp [hop]
  · next hop => simp [hop]
  · next hop => simp [hop]
  · next hnot3 hnot4 hnot5 =>
    refine iff_of_false Bool.false_ne_true ?_
    rintro (⟨hop, -⟩ | ⟨hop, -⟩ | ⟨hop, -⟩)
    exacts [hnot3 hop, hnot4 hop, hnot5 hop]

/-- A tag names a protocol or is above 3 (R92). -/
theorem tag_known_or_unknown (t : BitVec 4) : (∃ p, t = tagOf p) ∨ 3 < t.toNat := by
  have hcases : t.toNat = 0 ∨ t.toNat = 1 ∨ t.toNat = 2 ∨ t.toNat = 3 ∨ 3 < t.toNat := by omega
  rcases hcases with h | h | h | h | h
  · exact .inl ⟨.aos, BitVec.eq_of_toNat_eq h⟩
  · exact .inl ⟨.ccsds, BitVec.eq_of_toNat_eq h⟩
  · exact .inl ⟨.pusTm, BitVec.eq_of_toNat_eq h⟩
  · exact .inl ⟨.pusTc, BitVec.eq_of_toNat_eq h⟩
  · exact .inr h

@[simp] theorem protocolOfTag_tagOf (p : Protocol) : protocolOfTag (tagOf p) = some p := by cases p <;> rfl

@[simp] theorem tagOf_le (p : Protocol) : (tagOf p).toNat ≤ 3 := by cases p <;> decide

theorem encode_decInstr (p : Protocol) : encode (decInstr p) = decWord p := by cases p <;> rfl

theorem encode_encInstr (um : Bool) (p : Protocol) : encode (encInstr um p) = encWord p um := by cases p <;> rfl

theorem encode_convInstr (um : Bool) (p q : Protocol) : encode (convInstr um p q) = convWord p q um := by
  cases p <;> cases q <;> rfl


/-! ### Decoding -/

theorem decode_of_not_legal {w : Word} (h : ¬ SpecLegal w) : decode w = .error .illegalCommand := by
  rw [decode, if_neg (mt legal_iff_specLegal.mp h)]

theorem decode_of_unknownTag {w : Word} (hlegal : SpecLegal w) (htag : SpecUnknownTag w) :
    decode w = .error .formatUnknown := by
  rw [decode, if_pos (legal_iff_specLegal.mpr hlegal), if_pos (unknownTag_iff_specUnknownTag.mpr htag)]

theorem decode_of_known {w : Word} (hlegal : LegalShape w) (htag : unknownTag w = false) :
    decode w = decodeOperation w := by
  rw [decode, if_pos (legal_iff_shape.mpr hlegal), htag, if_neg Bool.false_ne_true]

theorem decode_crc32 : decode (writtenWord 1 false 0 0) = .ok .crc32 := rfl

theorem decode_crc16 : decode (writtenWord 2 false 0 0) = .ok .crc16 := rfl

theorem decode_dec (p : Protocol) : decode (writtenWord 3 false (tagOf p) 0) = .ok (decInstr p) := by
  rw [decode_of_known (.dec _) (by simp [unknownTag])]
  simp [decodeOperation]

theorem decode_enc (um : Bool) (p : Protocol) : decode (writtenWord 4 um 0 (tagOf p)) = .ok (encInstr um p) := by
  rw [decode_of_known (.enc ..) (by simp [unknownTag])]
  simp [decodeOperation]

theorem decode_conv (um : Bool) (p q : Protocol) :
    decode (writtenWord 5 um (tagOf p) (tagOf q)) = .ok (convInstr um p q) := by
  rw [decode_of_known (.conv ..) (by simp [unknownTag])]
  simp [decodeOperation]

/-- Settles O9, family by family. -/
theorem decodeOfEncode : Obligations.DecodeOfEncode := by
  intro i
  rcases instr_family i with (rfl | rfl) | ⟨p, rfl⟩ | ⟨um, p, rfl⟩ | ⟨um, p, q, rfl⟩
  · exact decode_crc32
  · exact decode_crc16
  · rw [encode_decInstr]
    exact decode_dec p
  · rw [encode_encInstr]
    exact decode_enc um p
  · rw [encode_convInstr]
    exact decode_conv um p q

/-- A legal word with known tags is the word of a command: its tags name the protocols of the command (R98). -/
theorem exists_encode_of_known {w : Word} (hlegal : SpecLegal w) (htag : ¬ SpecUnknownTag w) :
    ∃ i, w = (encode i).setWidth 32 := by
  rw [← unknownTag_iff_specUnknownTag] at htag
  cases specLegal_iff_shape.mp hlegal with
  | crc32 => exact ⟨.crc32, rfl⟩
  | crc16 => exact ⟨.crc16, rfl⟩
  | dec src =>
    obtain ⟨p, rfl⟩ := (tag_known_or_unknown src).resolve_right (by simpa [unknownTag] using htag)
    exact ⟨decInstr p, by rw [encode_decInstr]; rfl⟩
  | enc um tgt =>
    obtain ⟨p, rfl⟩ := (tag_known_or_unknown tgt).resolve_right (by simpa [unknownTag] using htag)
    exact ⟨encInstr um p, by rw [encode_encInstr]; rfl⟩
  | conv um src tgt =>
    obtain ⟨hsrc, htgt⟩ : ¬ 3 < src.toNat ∧ ¬ 3 < tgt.toNat := by simpa [unknownTag] using htag
    obtain ⟨p, rfl⟩ := (tag_known_or_unknown src).resolve_right hsrc
    obtain ⟨q, rfl⟩ := (tag_known_or_unknown tgt).resolve_right htgt
    exact ⟨convInstr um p q, by rw [encode_convInstr]; rfl⟩

/-- Settles O10: a word that decodes is legal with known tags, so it is the word of some command, and decoding that
word gives the very command back. -/
theorem encodeOfDecode : Obligations.EncodeOfDecode := by
  intro w i h
  have hlegal : SpecLegal w := by
    by_contra hnot
    rw [decode_of_not_legal hnot] at h
    cases h
  have htag : ¬ SpecUnknownTag w := by
    intro hunknown
    rw [decode_of_unknownTag hlegal hunknown] at h
    cases h
  obtain ⟨j, rfl⟩ := exists_encode_of_known hlegal htag
  rw [decodeOfEncode j] at h
  cases h
  rfl

/-- Settles O11: six words of R98 and three of the reserved space of R99, evaluated. -/
theorem sampleWordsDecode : Obligations.SampleWordsDecode :=
  ⟨rfl, rfl, rfl, rfl, rfl, rfl, rfl, rfl, rfl⟩

end Sys2Proof.Machine

/-! ## The rows of the opcode map -/

namespace Sys2Proof.Machine

/-- The word of a command selects the command's own row (R98): the 26 lemmas of `Laws.OpcodeRow`, as one. -/
theorem opcodeRow_statement : ∀ i : Instr, Laws.OpcodeRow.Statement i
  | .crc32 => Laws.OpcodeRow.crc32
  | .crc16 => Laws.OpcodeRow.crc16
  | .decAos => Laws.OpcodeRow.decAos
  | .decCcsds => Laws.OpcodeRow.decCcsds
  | .decPusTm => Laws.OpcodeRow.decPusTm
  | .decPusTc => Laws.OpcodeRow.decPusTc
  | .encAos um => Laws.OpcodeRow.encAos um
  | .encCcsds um => Laws.OpcodeRow.encCcsds um
  | .encPusTm um => Laws.OpcodeRow.encPusTm um
  | .encPusTc um => Laws.OpcodeRow.encPusTc um
  | .convAosAos um => Laws.OpcodeRow.convAosAos um
  | .convAosCcsds um => Laws.OpcodeRow.convAosCcsds um
  | .convAosPusTm um => Laws.OpcodeRow.convAosPusTm um
  | .convAosPusTc um => Laws.OpcodeRow.convAosPusTc um
  | .convCcsdsAos um => Laws.OpcodeRow.convCcsdsAos um
  | .convCcsdsCcsds um => Laws.OpcodeRow.convCcsdsCcsds um
  | .convCcsdsPusTm um => Laws.OpcodeRow.convCcsdsPusTm um
  | .convCcsdsPusTc um => Laws.OpcodeRow.convCcsdsPusTc um
  | .convPusTmAos um => Laws.OpcodeRow.convPusTmAos um
  | .convPusTmCcsds um => Laws.OpcodeRow.convPusTmCcsds um
  | .convPusTmPusTm um => Laws.OpcodeRow.convPusTmPusTm um
  | .convPusTmPusTc um => Laws.OpcodeRow.convPusTmPusTc um
  | .convPusTcAos um => Laws.OpcodeRow.convPusTcAos um
  | .convPusTcCcsds um => Laws.OpcodeRow.convPusTcCcsds um
  | .convPusTcPusTm um => Laws.OpcodeRow.convPusTcPusTm um
  | .convPusTcPusTc um => Laws.OpcodeRow.convPusTcPusTc um

/-- The mask of a row with operation `op`: `UM` is free for `ENC` and `CONV` alone (R91, R98). -/
def maskOfOp (op : BitVec 4) : Half := if op = 4 ∨ op = 5 then 0xFEFF else 0xFFFF

theorem opcodeMask_eq_maskOfOp (i : Instr) : opcodeMask i = maskOfOp ((opcodeMatch i).extractLsb' 12 4) := by
  cases i <;> simp only [opcodeMask, opcodeMatch] <;> decide

/-- Every mask keeps the whole operation field (R98). -/
theorem op_and_opcodeMask (c : Half) (i : Instr) : (c &&& opcodeMask i).extractLsb' 12 4 = c.extractLsb' 12 4 := by
  have hmask : (opcodeMask i).extractLsb' 12 4 = BitVec.allOnes 4 := by
    rw [opcodeMask_eq_maskOfOp, maskOfOp]
    split <;> decide
  rw [BitVec.extractLsb'_and, hmask, BitVec.and_allOnes]

/-- A word that selects a row has the row's operation. -/
theorem op_of_selects {c : Half} {i : Instr} (h : c &&& opcodeMask i = opcodeMatch i) :
    (opcodeMatch i).extractLsb' 12 4 = c.extractLsb' 12 4 := by
  rw [← h, op_and_opcodeMask]

/-- No word selects two rows: both have the word's operation, so the same mask, so the same match (R98). -/
theorem selects_unique {c : Half} {i j : Instr} (hi : c &&& opcodeMask i = opcodeMatch i)
    (hj : c &&& opcodeMask j = opcodeMatch j) : opcodeMatch j = opcodeMatch i := by
  have hmask : opcodeMask j = opcodeMask i := by
    rw [opcodeMask_eq_maskOfOp, opcodeMask_eq_maskOfOp, op_of_selects hi, op_of_selects hj]
  rw [← hi, ← hj, hmask]

/-- The word of a command selects the command's own row and no other (R98). -/
theorem encode_selects_iff {i j : Instr} :
    encode i &&& opcodeMask j = opcodeMatch j ↔ opcodeMatch j = opcodeMatch i := by
  obtain ⟨hi, -⟩ := opcodeRow_statement i
  refine ⟨selects_unique hi, fun h => ?_⟩
  rw [opcodeMask_eq_maskOfOp, h, ← opcodeMask_eq_maskOfOp, hi]

/-- Settles O8: a legal word with known tags is the word of a command. -/
theorem legalWordSelectsExactlyOneRow : Obligations.LegalWordSelectsExactlyOneRow := by
  refine fun w => ⟨fun ⟨hlegal, htag⟩ => ?_, decode_of_not_legal, decode_of_unknownTag⟩
  obtain ⟨i, rfl⟩ := exists_encode_of_known hlegal htag
  have hlow : ((encode i).setWidth 32).extractLsb' 0 16 = encode i := by
    rw [BitVec.extractLsb'_setWidth_of_le (by decide), BitVec.extractLsb'_eq_self]
  refine ⟨i, decodeOfEncode i, fun j => ?_⟩
  rw [hlow, encode_selects_iff]

end Sys2Proof.Machine

/-! ## The command write -/

namespace Sys2Proof.Machine

/-- Settles O4: offset 0 is that of `CMD`. -/
theorem stepRunsTheDecodedCommand : Obligations.StepRunsTheDecodedCommand := by
  intro s w i rest hp hd
  rw [step_write_reg (r := .cmd) hp]
  simp only [writeReg, writeCmd, hd]

end Sys2Proof.Machine

/-! ## Command lines

What an assembler emits for a command line (R110, R113). -/

namespace Sys2Proof.Machine

@[simp] theorem parseTag_tagString (p : Protocol) : parseTag (tagString p) = some p := by cases p <;> decide

/-- A string parses to a protocol exactly when it is that protocol's own (R113). -/
theorem parseTag_eq_some {str : List Byte} {p : Protocol} : parseTag str = some p ↔ str = tagString p := by
  refine ⟨fun h => ?_, fun h => h ▸ parseTag_tagString p⟩
  unfold parseTag at h
  split_ifs at h <;> cases h <;> assumption

/-- Known strings assemble to the tags of R92. -/
@[simp] theorem assembleTag_tagString (p : Protocol) : assembleTag (tagString p) = tagOf p := by
  simp only [assembleTag, parseTag_tagString]

/-- Settles O55: the tag 15 is emitted where no protocol is parsed. -/
theorem tagStringsParseExactly : Obligations.TagStringsParseExactly := by
  refine ⟨fun _ _ => parseTag_eq_some, fun str hstr => ?_⟩
  have hnone : parseTag str = none := Option.eq_none_iff_forall_ne_some.mpr fun p hp => hstr p (parseTag_eq_some.mp hp)
  simp only [assembleTag, hnone]

/-- Settles O56: with the tags of known strings, the fields of the line are those of the command. -/
theorem assembledWordIsTheCommandsWord : Obligations.AssembledWordIsTheCommandsWord := by
  refine ⟨rfl, rfl, fun p => ?_, fun p um => ?_, fun p q um => ?_⟩
  · rw [assembleCommand, assembleTag_tagString, encode_decInstr, decWord]
  · rw [assembleCommand, assembleTag_tagString, encode_encInstr, encWord]
  · rw [assembleCommand, assembleTag_tagString, assembleTag_tagString, encode_convInstr, convWord]

end Sys2Proof.Machine

/-! ## Pseudo-instructions

What the port does with the accesses of a driver's line, one lemma per kind of line, and the two copying loops by
induction on the bytes (R111, R112). -/

namespace Sys2Proof.Machine

/-- The buffer after the bytes `bs` have been written from cell `i` on. -/
def Memory.writeBytes (m : Memory) : Nat → List Byte → Memory
  | _, [] => m
  | i, b :: bs => Memory.writeBytes (m.write i b) (i + 1) bs

/-- Cells below the first and from the last on keep what they held. -/
theorem Memory.read_writeBytes_outside {m : Memory} {i k : Nat} {bs : List Byte} (h : k < i ∨ i + bs.length ≤ k) :
    (m.writeBytes i bs).read k = m.read k := by
  induction bs generalizing m i with
  | nil => rfl
  | cons b bs ih =>
    rw [List.length_cons] at h
    rw [Memory.writeBytes, ih (by omega), Memory.read_write_other b (by omega)]

/-- The cells written hold the bytes, index by index. -/
theorem Memory.read_writeBytes_inside {m : Memory} {i k : Nat} {bs : List Byte} (h : k < bs.length) :
    (m.writeBytes i bs).read (i + k) = bs[k]? := by
  induction bs generalizing m i k with
  | nil => simp at h
  | cons b bs ih =>
    rw [Memory.writeBytes]
    cases k with
    | zero =>
      rw [Memory.read_writeBytes_outside (by omega), Nat.add_zero, Memory.read_write_same, List.getElem?_cons_zero]
    | succ k =>
      rw [List.getElem?_cons_succ, ← ih (m := m.write i b) (i := i + 1) (by simpa using h)]
      congr 1
      omega

section

variable {s : State} {rest : List PortEvent}

/-- `WB i, b` writes one cell (R62, R111). -/
theorem runPort_lineWb {i : Nat} {b : Byte} (hp : s.port = .access (lineWb i b) :: rest) (hi : i < s.cap) :
    runPort s = runPort { s with port := rest, ibuf := s.ibuf.write i b } := by
  have hbyte : (b.setWidth 32).setWidth 8 = b := by simp
  rw [runPort_event hp (step_write_ibuf hi hp) rfl, hbyte]

/-- `RB OBUF, i` adds the byte at that index to the replies (R63, R111). -/
theorem runPort_lineRb_obuf {i : Nat} {b : Byte} (hp : s.port = .access (lineRb .obuf i) :: rest)
    (hb : s.obuf[i]? = some b) :
    runPort s = runPort { s with port := rest, replies := s.replies ++ [b.setWidth 32] } :=
  runPort_event hp (step_read hp (bufferByte_of_getElem? hb _)) rfl

/-- `RD <reg>` adds the register's value to the replies (R64, R111). -/
theorem runPort_lineRd {r : Reg} (hp : s.port = .access (lineRd r) :: rest) :
    runPort s = runPort { s with port := rest, replies := s.replies ++ [readReg r s] } :=
  runPort_event hp (step_read hp (memRead_regOffset r s)) rfl

/-- `WR ILEN, n` sets the length of the input, for a length that fits the buffer and the port (R25, R111). -/
theorem runPort_lineWr_ilen {n : Nat} (hp : s.port = .access (lineWr .ilen (lengthWord n)) :: rest) (hcap : n ≤ s.cap)
    (hn : n < 2 ^ 32) : runPort s = runPort { s with port := rest, ilen := n } := by
  have hlength : (lengthWord n).toNat = n := by
    rw [lengthWord_of_lt hn, BitVec.toNat_ofNat, Nat.mod_eq_of_lt hn]
  have hstep : step s = .next { s with port := rest, ilen := n } := by
    rw [step_write_reg hp]
    simp only [writeReg, writeIlen, hlength, hcap, if_true]
  exact runPort_event hp hstep rfl

/-- `WR M_<NAME>, v` assigns one metadata register (R30, R111). -/
theorem runPort_lineWr_meta {n : MetaName} {v : Word} (hp : s.port = .access (lineWr (metaReg n) v) :: rest) :
    runPort s = runPort { s with port := rest, m := metaAssign s.m (n, v) } := by
  refine runPort_event hp ?_ rfl
  rw [step_write_reg hp, writeReg_metaReg]

end

/-- The stores of `LOAD` write their bytes from the first cell on; whatever waits after them comes next (R112). -/
theorem runPort_storeLines {s : State} {i : Nat} {bs : List Byte} {after : List Access}
    (hp : s.port = asEvents (storeLines i bs ++ after)) (hcap : i + bs.length ≤ s.cap) :
    runPort s = runPort { s with port := asEvents after, ibuf := s.ibuf.writeBytes i bs } := by
  induction bs generalizing s i with
  | nil =>
    have hafter : s.port = asEvents after := hp
    rw [← hafter]
    rfl
  | cons b bs ih =>
    rw [List.length_cons] at hcap
    exact (runPort_lineWb hp (by omega)).trans (ih rfl (show i + 1 + bs.length ≤ s.cap by omega))

/-- The loop of `MOVE` copies the output from index `i` on to the cells of the same indices, and replies with each byte
it reads (R112). -/
theorem runPort_moveLines {s : State} {i : Nat} {bs : List Byte} {after : List Access}
    (hp : s.port = asEvents (moveLines i bs ++ after)) (hobuf : s.obuf.drop i = bs) (hcap : i + bs.length ≤ s.cap) :
    runPort s = runPort { s with
      port := asEvents after
      ibuf := s.ibuf.writeBytes i bs
      replies := s.replies ++ bs.map (BitVec.setWidth 32) } := by
  induction bs generalizing s i with
  | nil =>
    have hafter : s.port = asEvents after := hp
    rw [← hafter, List.map_nil, List.append_nil]
    rfl
  | cons b bs ih =>
    have hb : s.obuf[i]? = some b := by rw [← List.head?_drop, hobuf, List.head?_cons]
    have hrest : s.obuf.drop (i + 1) = bs := by rw [← List.drop_drop, hobuf, List.drop_one, List.tail_cons]
    rw [List.length_cons] at hcap
    have hreplies : s.replies ++ (b :: bs).map (BitVec.setWidth 32) =
        s.replies ++ [b.setWidth 32] ++ bs.map (BitVec.setWidth 32) := by simp
    rw [hreplies]
    calc runPort s
      _ = runPort { s with
            port := asEvents (lineWb i b :: moveLines (i + 1) bs ++ after)
            replies := s.replies ++ [b.setWidth 32] } := runPort_lineRb_obuf hp hb
      _ = runPort { s with
            port := asEvents (moveLines (i + 1) bs ++ after)
            ibuf := s.ibuf.write i b
            replies := s.replies ++ [b.setWidth 32] } := runPort_lineWb rfl (show i < s.cap by omega)
      _ = _ := ih rfl hrest (show i + 1 + bs.length ≤ s.cap by omega)

/-- The lines of `META` make their assignments in the order written, and the port is worked off (R112). -/
theorem runPort_pseudoMeta {s : State} {pairs : List (MetaName × Word)} (hp : s.port = asEvents (pseudoMeta pairs)) :
    runPort s = .next { s with port := [], m := pairs.foldl metaAssign s.m } := by
  induction pairs generalizing s with
  | nil =>
    have hnone : s.port = [] := hp
    rw [← hnone]
    exact runPort_idle hnone
  | cons pair pairs ih => exact (runPort_lineWr_meta hp).trans (ih rfl)

/-- Cells written from 0 on, as `LOAD` and `MOVE` leave them: the bytes, and above them what was there. -/
theorem Memory.read_writeBytes_zero (m : Memory) (bs : List Byte) :
    (∀ k, k < bs.length → (m.writeBytes 0 bs).read k = bs[k]?) ∧
      ∀ k, bs.length ≤ k → (m.writeBytes 0 bs).read k = m.read k := by
  refine ⟨fun k hk => ?_, fun k hk => Memory.read_writeBytes_outside (.inr (by omega))⟩
  simpa using Memory.read_writeBytes_inside (m := m) (i := 0) hk

/-- Settles O57: the stores, then the length. -/
theorem loadPlacesTheInput : Obligations.LoadPlacesTheInput := by
  intro s bs hcap hlen hp
  refine ⟨s.ibuf.writeBytes 0 bs, ?_, Memory.read_writeBytes_zero s.ibuf bs⟩
  calc runPort s
    _ = runPort { s with
          port := asEvents [lineWr .ilen (lengthWord bs.length)]
          ibuf := s.ibuf.writeBytes 0 bs } := runPort_storeLines hp (by omega)
    _ = runPort { s with port := [], ibuf := s.ibuf.writeBytes 0 bs, ilen := bs.length } :=
          runPort_lineWr_ilen rfl hcap hlen
    _ = _ := runPort_idle rfl

/-- Settles O58: the read of `OLEN`, the copying, then the length. -/
theorem moveCopiesTheOutput : Obligations.MoveCopiesTheOutput := by
  intro s hcap hlen hp
  refine ⟨s.ibuf.writeBytes 0 s.obuf, ?_, Memory.read_writeBytes_zero s.ibuf s.obuf⟩
  rw [← lengthWord_of_lt hlen, ← List.singleton_append, ← List.append_assoc]
  calc runPort s
    _ = runPort { s with
          port := asEvents (moveLines 0 s.obuf ++ [lineWr .ilen (lengthWord s.obuf.length)])
          replies := s.replies ++ [lengthWord s.obuf.length] } := runPort_lineRd hp
    _ = runPort { s with
          port := asEvents [lineWr .ilen (lengthWord s.obuf.length)]
          ibuf := s.ibuf.writeBytes 0 s.obuf
          replies := s.replies ++ [lengthWord s.obuf.length] ++ s.obuf.map (BitVec.setWidth 32) } :=
          runPort_moveLines rfl rfl (show 0 + s.obuf.length ≤ s.cap by omega)
    _ = runPort { s with
          port := []
          ibuf := s.ibuf.writeBytes 0 s.obuf
          ilen := s.obuf.length
          replies := s.replies ++ [lengthWord s.obuf.length] ++ s.obuf.map (BitVec.setWidth 32) } :=
          runPort_lineWr_ilen rfl hcap hlen
    _ = _ := runPort_idle rfl

/-- Settles O59, by induction on the pairs. -/
theorem metaSetsTheNamedRegisters : Obligations.MetaSetsTheNamedRegisters := fun _ _ => runPort_pseudoMeta

/-- Settles O60: `CLRMETA` is a `META` line that assigns 0 under each of the seven names. -/
theorem clrmetaZeroesTheMetadata : Obligations.ClrmetaZeroesTheMetadata := fun _ hp => runPort_pseudoMeta hp

end Sys2Proof.Machine

/-! ## The checksum generators

Each generator shifts its register eight times per byte. The shift is linear over exclusive or and loses nothing; the
other forms of R121, R125, R126 and R127 follow from the first, the detection of errors of R131 from the second. -/

namespace Sys2Proof.Machine

theorem shiftTimes_eq_iterate {α : Type} (f : α → α) (n : Nat) : shiftTimes f n = f^[n] := by
  funext a
  induction n generalizing a with
  | zero => rfl
  | succ n ih => exact ih (f a)

/-- One more shift at the end. -/
theorem shiftTimes_succ {α : Type} (f : α → α) (n : Nat) (a : α) : shiftTimes f (n + 1) a = f (shiftTimes f n a) := by
  rw [shiftTimes_eq_iterate, shiftTimes_eq_iterate, Function.iterate_succ_apply']

/-! ### Linearity -/

/-- Linear at each shift, so linear at any number of them. -/
theorem shiftTimes_xor {w : Nat} {f : BitVec w → BitVec w} (hf : ∀ a b, f (a ^^^ b) = f a ^^^ f b) (n : Nat)
    (a b : BitVec w) : shiftTimes f n (a ^^^ b) = shiftTimes f n a ^^^ shiftTimes f n b := by
  have hsemiconj : Function.Semiconj₂ f (· ^^^ ·) (· ^^^ ·) := hf
  rw [shiftTimes_eq_iterate]
  exact hsemiconj.iterate n a b

theorem crc16Bit_eq_xor (c : Half) : crc16Bit c = (c <<< 1) ^^^ if c.getLsbD 15 then 0x1021 else 0 := by
  unfold crc16Bit
  split <;> simp

theorem crc32Bit_eq_xor (c : Word) : crc32Bit c = (c >>> 1) ^^^ if c.getLsbD 0 then 0xEDB88320 else 0 := by
  unfold crc32Bit
  split <;> simp

theorem crc16SerialBit_eq_xor (c : Half) (d : Bool) :
    crc16SerialBit c d = (c <<< 1) ^^^ if c.getLsbD 15 ^^ d then 0x1021 else 0 := by
  unfold crc16SerialBit
  split <;> simp

/-- The polynomial of a sum of two bits is the sum of the two polynomials. -/
theorem ite_xor_eq_xor_ite {w : Nat} (p : BitVec w) (a b : Bool) :
    (if a ^^ b then p else 0) = (if a then p else 0) ^^^ if b then p else 0 := by
  cases a <;> cases b <;> simp

theorem crc16Bit_xor (a b : Half) : crc16Bit (a ^^^ b) = crc16Bit a ^^^ crc16Bit b := by
  simp only [crc16Bit_eq_xor, BitVec.shiftLeft_xor_distrib, BitVec.getLsbD_xor, ite_xor_eq_xor_ite]
  ac_rfl

theorem crc32Bit_xor (a b : Word) : crc32Bit (a ^^^ b) = crc32Bit a ^^^ crc32Bit b := by
  simp only [crc32Bit_eq_xor, BitVec.ushiftRight_xor_distrib, BitVec.getLsbD_xor, ite_xor_eq_xor_ite]
  ac_rfl

/-! ### The table-driven forms

A register whose next `n` bits to be tested are 0 is only shifted. The table-driven step splits the register into such a
part and the byte that meets the data. -/

/-- With its upper `n` bits 0 a CRC-16 register is shifted left `n` times and no polynomial comes in. -/
theorem shiftTimes_crc16Bit_of_clear {c : Half} {n : Nat} (h : ∀ j, j < n → c.getLsbD (15 - j) = false) :
    shiftTimes crc16Bit n c = c <<< n := by
  induction n with
  | zero => simp [shiftTimes]
  | succ n ih =>
    have htested : (c <<< n).getLsbD 15 = false := by rw [BitVec.getLsbD_shiftLeft, h n n.lt_succ_self, Bool.and_false]
    rw [shiftTimes_succ, ih fun j hj => h j (by omega), crc16Bit_eq_xor, htested, BitVec.shiftLeft_add]
    simp

/-- With its lower `n` bits 0 a CRC-32 register is shifted right `n` times and no polynomial comes in. -/
theorem shiftTimes_crc32Bit_of_clear {c : Word} {n : Nat} (h : ∀ j, j < n → c.getLsbD j = false) :
    shiftTimes crc32Bit n c = c >>> n := by
  induction n with
  | zero => simp [shiftTimes]
  | succ n ih =>
    have htested : (c >>> n).getLsbD 0 = false := by simp [h n n.lt_succ_self]
    rw [shiftTimes_succ, ih fun j hj => h j (by omega), crc32Bit_eq_xor, htested, BitVec.shiftRight_add]
    simp

/-- A register is its lower byte and what stands above it. -/
theorem high_xor_low {w : Nat} (c : BitVec w) : ((c >>> 8) <<< 8) ^^^ (c.setWidth 8).setWidth w = c := by
  ext i hi
  by_cases h : i < 8
  · simp [h, BitVec.getLsbD_eq_getElem hi]
  · simp [h, hi, show 8 + (i - 8) = i by omega]

/-- The table-driven step of CRC-16 (R127): the lower byte of the register is only shifted. -/
theorem crc16ByteTable_eq_crc16Byte (c : Half) (b : Byte) : crc16ByteTable c b = crc16Byte c b := by
  have hupper : ((c >>> 8).setWidth 8).setWidth 16 = c >>> 8 := by bv_omega
  have hsplit : c ^^^ (b.setWidth 16 <<< 8) =
      (c.setWidth 8).setWidth 16 ^^^ (((c >>> 8).setWidth 8 ^^^ b).setWidth 16 <<< 8) := by
    rw [BitVec.setWidth_xor, BitVec.shiftLeft_xor_distrib, hupper, ← BitVec.xor_assoc,
      BitVec.xor_comm (BitVec.setWidth _ _), high_xor_low]
  have hlow : shiftTimes crc16Bit 8 ((c.setWidth 8).setWidth 16) = c <<< 8 := by
    rw [shiftTimes_crc16Bit_of_clear fun j hj => by simp; omega]
    bv_omega
  rw [crc16Byte, hsplit, shiftTimes_xor crc16Bit_xor, hlow]
  rfl

/-- The table-driven step of CRC-32 (R121): what stands above the lower byte of the register is only shifted. -/
theorem crc32ByteTable_eq_crc32Byte (c : Word) (b : Byte) : crc32ByteTable c b = crc32Byte c b := by
  have hsplit : c ^^^ b.setWidth 32 = ((c >>> 8) <<< 8) ^^^ (c.setWidth 8 ^^^ b).setWidth 32 := by
    rw [BitVec.setWidth_xor, ← BitVec.xor_assoc, high_xor_low]
  have hhigh : shiftTimes crc32Bit 8 ((c >>> 8) <<< 8) = c >>> 8 := by
    rw [shiftTimes_crc32Bit_of_clear fun j hj => by simp [hj]]
    bv_omega
  rw [crc32Byte, hsplit, shiftTimes_xor crc32Bit_xor, hhigh]
  rfl

/-- Settles O30, by the linearity of the shift. -/
theorem tableDrivenFormsAreTheGenerators : Obligations.TableDrivenFormsAreTheGenerators :=
  ⟨crc16ByteTable_eq_crc16Byte, crc32ByteTable_eq_crc32Byte⟩

/-! ### The residue -/

/-- A byte equal to the upper byte of the register cancels it: only the shift remains. -/
theorem crc16Byte_upper (c : Half) : crc16Byte c ((c >>> 8).setWidth 8) = c <<< 8 := by
  have hzero : crc16Table 0#8 = 0#16 := rfl
  rw [← crc16ByteTable_eq_crc16Byte, crc16ByteTable, BitVec.xor_self, hzero, BitVec.xor_zero]

/-- Sixteen shifts leave nothing of a half. -/
theorem shiftLeft_eight_eight (c : Half) : (c <<< 8) <<< 8 = 0 := by
  rw [← BitVec.shiftLeft_add]
  exact BitVec.shiftLeft_eq_zero (le_refl 16)

/-- The register after its own two bytes, most significant first, is 0. -/
theorem foldl_crc16Byte_be16 (c : Half) : (be16 c).foldl crc16Byte c = 0 := by
  have hhigh : c.extractLsb' 8 8 = (c >>> 8).setWidth 8 := rfl
  have hlow : c.extractLsb' 0 8 = ((c <<< 8) >>> 8).setWidth 8 := by
    apply BitVec.eq_of_toNat_eq
    simp [Nat.shiftLeft_eq, Nat.shiftRight_eq_div_pow]
    omega
  calc (be16 c).foldl crc16Byte c
    _ = crc16Byte (crc16Byte c (c.extractLsb' 8 8)) (c.extractLsb' 0 8) := rfl
    _ = (c <<< 8) <<< 8 := by rw [hhigh, crc16Byte_upper, hlow, crc16Byte_upper]
    _ = 0 := shiftLeft_eight_eight c

/-- Settles O32: the two bytes after `s` are those of the register after `s`. -/
theorem crc16ResidueIsZero : Obligations.Crc16ResidueIsZero := fun s => by
  rw [crc16Ccitt, List.foldl_append]
  exact foldl_crc16Byte_be16 (crc16Ccitt s)

/-! ### The serial shift register -/

/-- Data that waits in the register is data fed in at the clock that tests it. -/
theorem crc16Bit_xor_eq_serial (c x : Half) : crc16Bit (c ^^^ x) = crc16SerialBit c (x.getLsbD 15) ^^^ (x <<< 1) := by
  simp only [crc16Bit_eq_xor, crc16SerialBit_eq_xor, BitVec.shiftLeft_xor_distrib, BitVec.getLsbD_xor]
  ac_rfl

/-- `n` shifts of a register with data `x` in it are `n` clocks fed with the bits of `x` from bit 15 down; the rest of
the data still waits. -/
theorem shiftTimes_crc16Bit_xor_eq_serial (c x : Half) {n : Nat} (hn : n ≤ 16) :
    shiftTimes crc16Bit n (c ^^^ x) =
      (List.range n).foldl (fun r j => crc16SerialBit r (x.getLsbD (15 - j))) c ^^^ (x <<< n) := by
  induction n with
  | zero => simp [shiftTimes]
  | succ n ih =>
    have htested : (x <<< n).getLsbD 15 = x.getLsbD (15 - n) := by
      rw [BitVec.getLsbD_shiftLeft]
      simp [show n ≤ 15 by omega]
    rw [shiftTimes_succ, ih (by omega), crc16Bit_xor_eq_serial, htested, ← BitVec.shiftLeft_add, List.range_succ,
      List.foldl_concat]

/-- Settles O29: the data is the byte in bits 15:8, and after eight clocks none of it waits. -/
theorem serialShiftRegisterIsCrc16 : Obligations.SerialShiftRegisterIsCrc16 := by
  intro c b
  rw [crc16Byte, shiftTimes_crc16Bit_xor_eq_serial c _ (by decide), shiftLeft_eight_eight]
  simp [crc16ByteSerial, List.range_succ]

/-! ### Late truncation

Truncation to 16 bits commutes with every step of the generator, since each step tests bit 15 alone. -/

theorem ofNat_shiftLeft_one (w c : Nat) : BitVec.ofNat w (c <<< 1) = BitVec.ofNat w c <<< 1 := by
  apply BitVec.eq_of_toNat_eq
  simp [Nat.shiftLeft_eq, Nat.mod_mul_mod]

theorem ofNat_crc16LateBit (c : Nat) : BitVec.ofNat 16 (crc16LateBit c) = crc16Bit (BitVec.ofNat 16 c) := by
  have htested : (BitVec.ofNat 16 c).getLsbD 15 = c.testBit 15 := by
    rw [BitVec.getLsbD_ofNat, decide_eq_true (by decide : 15 < 16), Bool.true_and]
  rw [crc16LateBit, crc16Bit, htested]
  split
  · rw [BitVec.ofNat_xor, ofNat_shiftLeft_one]
    rfl
  · exact ofNat_shiftLeft_one 16 c

theorem ofNat_crc16LateByte (c : Nat) (b : Byte) :
    BitVec.ofNat 16 (crc16LateByte c b) = crc16Byte (BitVec.ofNat 16 c) b := by
  have hbit : Function.Semiconj (BitVec.ofNat 16) crc16LateBit crc16Bit := ofNat_crc16LateBit
  have hdata : BitVec.ofNat 16 (c ^^^ (b.toNat <<< 8)) = BitVec.ofNat 16 c ^^^ (b.setWidth 16 <<< 8) := by
    rw [BitVec.ofNat_xor]
    rfl
  rw [crc16LateByte, crc16Byte, shiftTimes_eq_iterate, shiftTimes_eq_iterate, hbit.iterate_right 8, hdata]

/-- Settles O31: truncation commutes with every byte step, so with all of them. -/
theorem lateTruncationIsCrc16 : Obligations.LateTruncationIsCrc16 := fun _ =>
  (List.foldl_hom (BitVec.ofNat 16) fun c b => (ofNat_crc16LateByte c b).symm).symm

/-! ### The checksum commands -/

/-- Settles O26. -/
theorem crc32CommandResult : Obligations.Crc32CommandResult := fun s _ h =>
  ⟨s.hidden.draw, checksumCommand_of_input h .crc32 (encode .crc32)⟩

/-- Settles O27: the CRC registers hold a CRC-16 zero-extended. -/
theorem crc16CommandResult : Obligations.Crc16CommandResult := fun s raw h => by
  have hzext : (0 : Half) ++ crc16Ccitt raw = (crc16Ccitt raw).setWidth 32 :=
    (BitVec.setWidth_eq_append (by decide)).symm
  rw [hzext]
  exact ⟨s.hidden.draw, checksumCommand_of_input h .crc16 (encode .crc16)⟩

/-- Settles O28. -/
theorem checksumCornerValues : Obligations.ChecksumCornerValues := by
  unfold Obligations.ChecksumCornerValues
  decide +kernel

end Sys2Proof.Machine

/-! ## Error detection

Both byte steps are injective in the register and in the byte. So two sequences that differ in one byte leave different
registers after that byte, and every later byte keeps them apart, at every length (R131). -/

namespace Sys2Proof.Machine

theorem crc16Bit_injective : Function.Injective crc16Bit := by
  have hbit (c : Half) : (crc16Bit c).getLsbD 0 = c.getLsbD 15 := by
    rw [crc16Bit_eq_xor]
    cases c.getLsbD 15 <;> simp
  intro a b h
  have htested : a.getLsbD 15 = b.getLsbD 15 := by rw [← hbit, ← hbit, h]
  rw [crc16Bit_eq_xor, crc16Bit_eq_xor, htested, BitVec.xor_left_inj] at h
  refine BitVec.eq_of_getLsbD_eq fun i hi => ?_
  by_cases hlast : i = 15
  · rw [hlast, htested]
  · have hshift := congrArg (BitVec.getLsbD · (i + 1)) h
    simpa [show i + 1 < 16 by omega, BitVec.getLsbD_eq_getElem hi] using hshift

theorem crc32Bit_injective : Function.Injective crc32Bit := by
  have hbit (c : Word) : (crc32Bit c).getLsbD 31 = c.getLsbD 0 := by
    rw [crc32Bit_eq_xor]
    cases c.getLsbD 0 <;> simp
  intro a b h
  have htested : a.getLsbD 0 = b.getLsbD 0 := by rw [← hbit, ← hbit, h]
  rw [crc32Bit_eq_xor, crc32Bit_eq_xor, htested, BitVec.xor_left_inj] at h
  refine BitVec.eq_of_getLsbD_eq fun i hi => ?_
  cases i with
  | zero => exact htested
  | succ i =>
    have hshift := congrArg (BitVec.getLsbD · i) h
    simpa [Nat.add_comm 1] using hshift

/-- Zero extension loses nothing. -/
theorem setWidth_injective {n w : Nat} (h : n ≤ w) : Function.Injective (BitVec.setWidth w : BitVec n → BitVec w) := by
  intro a b e
  simpa [h] using congrArg (BitVec.setWidth n) e

/-- A byte step that is injective in the register and in the byte, as the steps of both generators are. -/
structure InjectiveStep {w : Nat} (step : BitVec w → Byte → BitVec w) : Prop where
  register : ∀ b, Function.Injective fun c => step c b
  byte : ∀ c, Function.Injective (step c)

/-- A byte put into the register by exclusive or, then eight shifts: the form of both byte steps (R120, R124). -/
theorem injectiveStep_of_injective {w : Nat} {f : BitVec w → BitVec w} {enter : Byte → BitVec w}
    (hf : Function.Injective f) (henter : Function.Injective enter) :
    InjectiveStep fun c b => shiftTimes f 8 (c ^^^ enter b) := by
  have hshift : Function.Injective (shiftTimes f 8) := by
    rw [shiftTimes_eq_iterate]
    exact hf.iterate 8
  exact
    { register := fun _ _ _ h => (BitVec.xor_left_inj _).mp (hshift h)
      byte := fun _ _ _ h => henter ((BitVec.xor_right_inj _).mp (hshift h)) }

theorem crc16Byte_injectiveStep : InjectiveStep crc16Byte :=
  injectiveStep_of_injective crc16Bit_injective fun b b' (h : b.setWidth 16 <<< 8 = b'.setWidth 16 <<< 8) => by bv_omega

theorem crc32Byte_injectiveStep : InjectiveStep crc32Byte :=
  injectiveStep_of_injective crc32Bit_injective (setWidth_injective (by decide))

/-- Flipping one of a byte's eight bits changes the byte. -/
theorem xor_twoPow_ne (b : Byte) {k : Nat} (hk : k < 8) : b ^^^ BitVec.twoPow 8 k ≠ b := by
  intro h
  have hbit := congrArg (BitVec.getLsbD · k) h
  simp [hk] at hbit

section

variable {w : Nat} {step : BitVec w → Byte → BitVec w}

/-- Registers that differ stay different, whatever bytes follow. -/
theorem InjectiveStep.foldl_ne (hs : InjectiveStep step) {c c' : BitVec w} (h : c ≠ c') (s : List Byte) :
    s.foldl step c ≠ s.foldl step c' := by
  induction s generalizing c c' with
  | nil => exact h
  | cons b s ih => exact ih fun e => h (hs.register b e)

/-- A flipped bit leaves another register behind, whatever comes before it and after it. -/
theorem InjectiveStep.foldl_flipBit_ne (hs : InjectiveStep step) {s : List Byte} {i k : Nat} (hi : i < s.length)
    (hk : k < 8) (c : BitVec w) : (flipBit s i k).foldl step c ≠ s.foldl step c := by
  induction s generalizing i c with
  | nil => exact absurd hi (Nat.not_lt_zero i)
  | cons b s ih =>
    cases i with
    | zero => exact hs.foldl_ne (fun e => xor_twoPow_ne b hk (hs.byte c e)) s
    | succ i => exact ih (Nat.lt_of_succ_lt_succ hi) (step c b)

end

/-- Both checksums of a sequence change when one of its bits is flipped. -/
theorem crcOf_flipBit_ne (kind : CrcKind) {s : List Byte} {i k : Nat} (hi : i < s.length) (hk : k < 8) :
    crcOf kind (flipBit s i k) ≠ crcOf kind s := by
  cases kind with
  | crc32 => exact fun e => crc32Byte_injectiveStep.foldl_flipBit_ne hi hk _ ((BitVec.xor_left_inj _).mp e)
  | crc16 => exact fun e => crc16Byte_injectiveStep.foldl_flipBit_ne hi hk _ (setWidth_injective (by decide) e)

/-- A flip is a change, since it changes the checksum. -/
theorem flipBit_ne {f : List Byte} {i k : Nat} (hi : i < f.length) (hk : k < 8) : flipBit f i k ≠ f :=
  ne_of_apply_ne (crcOf .crc16) (crcOf_flipBit_ne .crc16 hi hk)

/-! ### Flips in a frame -/

theorem be16_u16be_of_length {t : List Byte} (h : t.length = 2) : be16 (u16be t) = t := by
  obtain ⟨a, b, rfl⟩ := List.length_eq_two.mp h
  exact be16_u16be a b

theorem be32_u32be_of_length {t : List Byte} (h : t.length = 4) : be32 (u32be t) = t :=
  match t, h with
  | [a, b, c, d], _ => be32_u32be a b c d

/-- A trailer of the protocol's width is determined by the checksum read from it (R130). -/
theorem eq_of_rcvdOf_eq {p : Protocol} {t t' : List Byte} (ht : t.length = (layout p).crcWidth)
    (ht' : t'.length = (layout p).crcWidth)
    (h : rcvdOf (layout p).crcAlgorithm t = rcvdOf (layout p).crcAlgorithm t') : t = t' := by
  have of_u16be (ht : t.length = 2) (ht' : t'.length = 2) (h : (u16be t).setWidth 32 = (u16be t').setWidth 32) :
      t = t' := by
    rw [← be16_u16be_of_length ht, ← be16_u16be_of_length ht', setWidth_injective (by decide) h]
  have of_u32be (ht : t.length = 4) (ht' : t'.length = 4) (h : u32be t = u32be t') : t = t' := by
    rw [← be32_u32be_of_length ht, ← be32_u32be_of_length ht', h]
  cases p with
  | aos => exact of_u32be ht ht' h
  | ccsds => exact of_u32be ht ht' h
  | pusTm => exact of_u16be ht ht' h
  | pusTc => exact of_u16be ht ht' h

@[simp] theorem flipBit_length (f : List Byte) (i k : Nat) : (flipBit f i k).length = f.length :=
  List.length_modify _ _ _

@[simp] theorem trailerBytes_length (l : FrameLayout) (f : List Byte) :
    (trailerBytes l f).length = f.length - (f.length - l.crcWidth) :=
  List.length_drop

@[simp] theorem remainderOf_append_trailerBytes (l : FrameLayout) (f : List Byte) :
    remainderOf l f ++ trailerBytes l f = f :=
  List.take_append_drop _ _

/-- A flip before the trailer is the same flip of the bytes the checksum covers. -/
theorem remainderOf_flipBit (l : FrameLayout) (f : List Byte) (i k : Nat) :
    remainderOf l (flipBit f i k) = flipBit (remainderOf l f) i k := by
  rw [remainderOf, flipBit_length]
  exact List.take_modify _ _ _ _

theorem trailerBytes_flipBit_of_lt {l : FrameLayout} {f : List Byte} {i : Nat} (h : i < f.length - l.crcWidth)
    (k : Nat) : trailerBytes l (flipBit f i k) = trailerBytes l f := by
  rw [trailerBytes, flipBit_length]
  exact List.drop_modify_of_lt _ _ _ _ h

/-- A flip in the trailer leaves the bytes the checksum covers alone. -/
theorem remainderOf_flipBit_of_le {l : FrameLayout} {f : List Byte} {i : Nat} (h : f.length - l.crcWidth ≤ i)
    (k : Nat) : remainderOf l (flipBit f i k) = remainderOf l f := by
  rw [remainderOf_flipBit]
  exact List.modify_eq_self (by simpa using h)

/-- After a flip the checksum of a frame and its trailer no longer agree: a flip before the trailer changes the one
alone, a flip in it the other alone (R131). -/
theorem crcOf_ne_rcvdOf_of_flipBit {p : Protocol} {f : List Byte} {i k : Nat}
    (hlen : (layout p).crcWidth ≤ f.length)
    (hcrc : crcOf (layout p).crcAlgorithm (remainderOf (layout p) f) =
      rcvdOf (layout p).crcAlgorithm (trailerBytes (layout p) f))
    (hi : i < f.length) (hk : k < 8) :
    crcOf (layout p).crcAlgorithm (remainderOf (layout p) (flipBit f i k)) ≠
      rcvdOf (layout p).crcAlgorithm (trailerBytes (layout p) (flipBit f i k)) := by
  by_cases hcovered : i < f.length - (layout p).crcWidth
  · rw [trailerBytes_flipBit_of_lt hcovered, ← hcrc, remainderOf_flipBit]
    exact crcOf_flipBit_ne _ (by simpa using hcovered) hk
  · have hremainder := remainderOf_flipBit_of_le (Nat.le_of_not_lt hcovered) k
    rw [hremainder, hcrc]
    intro e
    have htrailer := eq_of_rcvdOf_eq (by simp; omega) (by simp; omega) e
    refine flipBit_ne hi hk ?_
    rw [← remainderOf_append_trailerBytes (layout p) (flipBit f i k), hremainder, ← htrailer,
      remainderOf_append_trailerBytes]

/-- A frame with a mismatch in its common decode steps has it in its decoder, which adds no check of its own. -/
theorem decodeBy_of_decodeFrame_error {p : Protocol} {raw : List Byte} {e : DecodeError}
    (h : decodeFrame (layout p) raw = .error e) : decodeBy p raw = .error e := by
  cases p with
  | aos =>
    have h' : decodeFrame layoutAos raw = .error e := h
    simp only [decodeBy, decodeAos, h']
  | ccsds => exact h
  | pusTm => exact h
  | pusTc => exact h

/-- Settles O33: the flipped frame is as long as the accepted one, so it is not too short, and its checksum disagrees
with its trailer. -/
theorem singleBitErrorIsAlwaysDetected : Obligations.SingleBitErrorIsAlwaysDetected := by
  intro p f m i k hm hi hk
  obtain ⟨-, hlen, hcrc⟩ := decodeBy_ok hm
  have hwidth : (layout p).crcWidth ≤ f.length := by
    rw [FrameLayout.minimumTotalLength] at hlen
    omega
  have hne := crcOf_ne_rcvdOf_of_flipBit hwidth hcrc hi hk
  apply decodeBy_of_decodeFrame_error
  rcases decodeFrame_cases (layout p) (flipBit f i k) with ⟨hshort, -⟩ | ⟨-, -, e⟩ | ⟨-, heq, -⟩
  · rw [flipBit_length] at hshort
    omega
  · exact e
  · exact absurd heq hne

end Sys2Proof.Machine

/-! ## Header fields and the magic bytes

A field stands at a fixed offset below the header's length (R141, R151, R161, R171), so it can be read off the frame as
well as off the header cut from it. -/

namespace Sys2Proof.Machine

theorem byteAt_take {s : List Byte} {i n : Nat} (h : i < n) : byteAt (s.take n) i = byteAt s i := by
  simp [byteAt, h]

theorem byteAt_drop (s : List Byte) (n i : Nat) : byteAt (s.drop n) i = byteAt s (n + i) := by
  simp [byteAt]

/-- `u16be` reads the first two bytes alone. -/
theorem u16be_take_two (s : List Byte) : u16be (s.take 2) = byteAt s 0 ++ byteAt s 1 := by
  simp [u16be, byteAt_take]

/-- The fields of R141 by their offsets. -/
theorem fieldsAos_eq (s : List Byte) :
    fieldsAos s = { Extracted.zero with scid := byteAt s 0 ++ byteAt s 1, vcid := byteAt s 2 } := by
  rw [fieldsAos, u16be_take_two]

/-- The fields of R171 by their offsets. -/
theorem fieldsCcsds_eq (s : List Byte) :
    fieldsCcsds s =
      { Extracted.zero with ptype := byteAt s 1, apid := byteAt s 6, plen := byteAt s 7 ++ byteAt s 8 } := by
  rw [fieldsCcsds, u16be_take_two, byteAt_drop, byteAt_drop]

/-- Every field stands inside the header, so what follows the header has no part in it. -/
theorem fieldsBy_take_header (p : Protocol) (raw : List Byte) :
    fieldsBy p (raw.take (layout p).headerLength) = fieldsBy p raw := by
  cases p with
  | aos => simp [fieldsBy, fieldsAos_eq, layout, layoutAos, byteAt_take]
  | ccsds => simp [fieldsBy, fieldsCcsds_eq, layout, layoutCcsds, byteAt_take]
  | pusTm => simp [fieldsBy, fieldsPusTm, layout, layoutPusTm, byteAt_take]
  | pusTc => simp [fieldsBy, fieldsPusTc, layout, layoutPusTc, byteAt_take]

theorem append_byte_eq_ofNat (a b : Byte) : a ++ b = BitVec.ofNat 16 (a.toNat * 256 + b.toNat) := by
  rw [← toNat_append_byte, BitVec.ofNat_toNat, BitVec.setWidth_eq]

/-- Settles O35: the 16-bit fields are two appended bytes, every other field is one byte. -/
theorem fieldsStandAtFixedOffsets : Obligations.FieldsStandAtFixedOffsets := by
  refine ⟨fun b0 b1 b2 => ?_, fun b0 b1 b2 b3 b4 b5 b6 b7 b8 => ?_, ?_, ?_⟩
  · rw [fieldsAos_eq, ← append_byte_eq_ofNat]
    rfl
  · rw [fieldsCcsds_eq, ← append_byte_eq_ofNat]
    rfl
  · intros
    rfl
  · intros
    rfl

theorem stripMagic_of_leading_magic (rest : List Byte) : stripMagic (0x00 :: 0x7B :: 0x7C :: rest) = rest := by
  simp [stripMagic, magicPrefix]

/-- Settles O36: only a sequence that begins with the magic bytes is shortened. -/
theorem magicPrefixIsStrippedOnce : Obligations.MagicPrefixIsStrippedOnce := by
  refine ⟨stripMagic_of_leading_magic, fun s hs => ?_⟩
  rcases stripMagic_cases s with ⟨-, hmagic, -⟩ | ⟨-, e⟩
  · refine absurd ⟨s.drop 3, ?_⟩ hs
    calc s = s.take 3 ++ s.drop 3 := (List.take_append_drop 3 s).symm
      _ = 0x00 :: 0x7B :: 0x7C :: s.drop 3 := by rw [hmagic]; rfl
  · exact e

end Sys2Proof.Machine

/-! ## Sealed frames

What an encoder seals its decoder cuts apart again: the trailer is the one the decoder recomputes (R130), and the header
is as long as the layout says (R46). -/

namespace Sys2Proof.Machine

/-- The byte order of `be16` on a number: its two low digits to the base 256. -/
theorem be16_ofNat (n : Nat) : be16 (BitVec.ofNat 16 n) = [BitVec.ofNat 8 (n / 256), BitVec.ofNat 8 n] := by
  simp only [be16, List.cons.injEq, and_true, ← BitVec.toNat_inj, toNat_extract_byte, BitVec.toNat_ofNat]
  omega

theorem encodedHeader_length (p : Protocol) (n : Nat) (m : Meta) :
    (encodedHeader m n p).length = (layout p).headerLength := by
  cases p <;> rfl

/-- The header an encoder seals, byte for byte (R145, R155, R165, R175). -/
theorem encodeBy_eq_sealFrame_encodedHeader (p : Protocol) (payload : List Byte) (m : Meta) :
    encodeBy p payload m =
      sealFrame (layout p).crcAlgorithm (encodedHeader m payload.length p) payload := by
  cases p with
  | ccsds =>
    rw [encodeBy, encodeCcsds, headerCcsds, packetLength, be16_ofNat]
    rfl
  | aos => rfl
  | pusTm => rfl
  | pusTc => rfl

/-- The fields of an encoder's header are the parameters encoded (R147, R157, R167, R177). -/
theorem fieldsBy_encodedHeader (p : Protocol) (n : Nat) (m : Meta) :
    fieldsBy p (encodedHeader m n p) = encodedFields m n p := by
  cases p with
  | aos =>
    have hscid : u16be ((encodedHeader m n .aos).take 2) = m.scid := u16be_be16 m.scid
    rw [fieldsBy, fieldsAos, hscid]
    rfl
  | ccsds =>
    have hplen : u16be (((encodedHeader m n .ccsds).drop 7).take 2) = BitVec.ofNat 16 (n + 6) := by
      rw [← u16be_be16 (BitVec.ofNat 16 (n + 6)), be16_ofNat]
      rfl
    rw [fieldsBy, fieldsCcsds, hplen]
    rfl
  | pusTm => rfl
  | pusTc => rfl

section

variable {l : FrameLayout} {t : List Byte}

theorem remainderOf_append (body : List Byte) (h : t.length = l.crcWidth) : remainderOf l (body ++ t) = body := by
  rw [remainderOf, List.length_append, h, Nat.add_sub_cancel, List.take_left]

theorem trailerBytes_append (body : List Byte) (h : t.length = l.crcWidth) : trailerBytes l (body ++ t) = t := by
  rw [trailerBytes, List.length_append, h, Nat.add_sub_cancel, List.drop_left]

end

/-- The checksum a decoder reads from a trailer is the one its encoder put there (R130). -/
theorem rcvdOf_trailerOf (k : CrcKind) (s : List Byte) : rcvdOf k (trailerOf k s) = crcOf k s := by
  cases k with
  | crc32 => exact u32be_be32 _
  | crc16 => exact congrArg (BitVec.setWidth 32) (u16be_be16 _)

theorem remainderOf_sealFrame (p : Protocol) (header payload : List Byte) :
    remainderOf (layout p) (sealFrame (layout p).crcAlgorithm header payload) = header ++ payload :=
  remainderOf_append _ (trailerOf_length p _)

/-- The checksum in the trailer of a sealed frame is that of header and payload. -/
theorem rcvdOf_trailerBytes_sealFrame (p : Protocol) (header payload : List Byte) :
    rcvdOf (layout p).crcAlgorithm
        (trailerBytes (layout p) (sealFrame (layout p).crcAlgorithm header payload)) =
      crcOf (layout p).crcAlgorithm (header ++ payload) := by
  rw [sealFrame, trailerBytes_append _ (trailerOf_length p _), rcvdOf_trailerOf]

/-- The common decode steps cut a sealed frame where it was put together. -/
theorem decodeFrame_sealFrame {p : Protocol} {header : List Byte} (payload : List Byte)
    (h : header.length = (layout p).headerLength) :
    decodeFrame (layout p) (sealFrame (layout p).crcAlgorithm header payload) = .ok ⟨header, payload⟩ := by
  rcases decodeFrame_cases (layout p) (sealFrame (layout p).crcAlgorithm header payload) with
    ⟨hshort, -⟩ | ⟨-, hne, -⟩ | ⟨-, -, e⟩
  · rw [sealFrame_length, h, FrameLayout.minimumTotalLength] at hshort
    omega
  · rw [remainderOf_sealFrame, rcvdOf_trailerBytes_sealFrame] at hne
    exact absurd rfl hne
  · rw [e, remainderOf_sealFrame, ← h, List.take_left, List.drop_left]

/-- What a decoder delivers of the bytes between header and trailer: AOS alone strips leading magic bytes (R143). -/
def deliveredPayload (p : Protocol) (payload : List Byte) : List Byte :=
  if p = .aos then stripMagic payload else payload

/-- A frame that passes the common decode steps is accepted by its decoder, which adds no check of its own. -/
theorem decodeBy_of_decodeFrame_ok {p : Protocol} {raw : List Byte} {m : Message}
    (h : decodeFrame (layout p) raw = .ok m) :
    decodeBy p raw = .ok ⟨m.header, deliveredPayload p m.payload⟩ := by
  cases p with
  | aos =>
    have h' : decodeFrame layoutAos raw = .ok m := h
    simp only [decodeBy, decodeAos, h', deliveredPayload, if_true]
  | ccsds => exact h
  | pusTm => exact h
  | pusTc => exact h

theorem layout_minimumTotalLength (p : Protocol) : (layout p).minimumTotalLength = minimumLength p := by
  cases p <;> rfl

/-- Settles O37: the encoder seals the header of its parameters before the payload, and its decoder cuts it off. -/
theorem decodeOfEncodedFrame : Obligations.DecodeOfEncodedFrame := by
  intro p payload m
  have hheader := encodedHeader_length p payload.length m
  refine ⟨by rw [encodeBy_length, layout_minimumTotalLength], _, rfl, hheader, fieldsBy_encodedHeader p _ m, ?_⟩
  rw [encodeBy_eq_sealFrame_encodedHeader]
  exact decodeBy_of_decodeFrame_ok (decodeFrame_sealFrame payload hheader)

end Sys2Proof.Machine

/-! ## `DEC.P`

The three outcomes of a decode command over any protocol (R144, R154, R164, R174). -/

namespace Sys2Proof.Machine

/-- The trailer of a frame holds the checksum of the bytes before it (R130). -/
def TrailerMatches (l : FrameLayout) (raw : List Byte) : Prop :=
  crcOf l.crcAlgorithm (remainderOf l raw) = rcvdOf l.crcAlgorithm (trailerBytes l raw)

/-- A header cut from a frame of the minimum length lies before the trailer. -/
theorem take_header_remainderOf {l : FrameLayout} {raw : List Byte} (h : l.minimumTotalLength ≤ raw.length) :
    (remainderOf l raw).take l.headerLength = raw.take l.headerLength := by
  rw [FrameLayout.minimumTotalLength] at h
  rw [remainderOf, List.take_take, Nat.min_eq_left (by omega)]

section

variable {p : Protocol} {s : State} {raw : List Byte}

theorem decodeBy_of_short (hlen : raw.length < (layout p).minimumTotalLength) : decodeBy p raw = .error .tooShort :=
  decodeBy_of_decodeFrame_error (if_pos hlen)

theorem decodeBy_of_mismatch (hlen : (layout p).minimumTotalLength ≤ raw.length)
    (hcrc : ¬ TrailerMatches (layout p) raw) : decodeBy p raw = .error .checksumMismatch :=
  decodeBy_of_decodeFrame_error ((if_neg (Nat.not_lt.mpr hlen)).trans (if_pos hcrc))

theorem decodeBy_of_match (hlen : (layout p).minimumTotalLength ≤ raw.length)
    (hcrc : TrailerMatches (layout p) raw) :
    decodeBy p raw = .ok ⟨raw.take (layout p).headerLength,
      deliveredPayload p ((remainderOf (layout p) raw).drop (layout p).headerLength)⟩ := by
  rw [← take_header_remainderOf hlen]
  exact decodeBy_of_decodeFrame_ok ((if_neg (Nat.not_lt.mpr hlen)).trans (if_neg (not_not.mpr hcrc)))

theorem exec_decInstr_of_input (h : s.input = some raw) (p : Protocol) :
    exec (decInstr p) s = .next (s.withResults (decodeResults p (decWord p) raw) s.hidden.draw) := by
  rw [exec_decInstr, decodeCommand_of_input h, encode_decInstr]

theorem exec_decInstr_of_short (h : s.input = some raw) (hlen : raw.length < (layout p).minimumTotalLength) :
    exec (decInstr p) s = .next (s.withResults (Results.error (decWord p) 0x102) s.hidden.draw) := by
  rw [exec_decInstr_of_input h, decodeResults, decodeBy_of_short hlen]
  rfl

theorem exec_decInstr_of_mismatch (h : s.input = some raw) (hlen : (layout p).minimumTotalLength ≤ raw.length)
    (hcrc : ¬ TrailerMatches (layout p) raw) :
    exec (decInstr p) s = .next (s.withResults (Results.error (decWord p) 0x103) s.hidden.draw) := by
  rw [exec_decInstr_of_input h, decodeResults, decodeBy_of_mismatch hlen hcrc]
  rfl

theorem exec_decInstr_of_match (h : s.input = some raw) (hlen : (layout p).minimumTotalLength ≤ raw.length)
    (hcrc : TrailerMatches (layout p) raw) :
    exec (decInstr p) s = .next (s.withResults
      { cmd := decWord p
        status := 0x100
        obuf := deliveredPayload p ((remainderOf (layout p) raw).drop (layout p).headerLength)
        hbuf := raw.take (layout p).headerLength
        x := fieldsBy p raw
        crcCalc := crcOf (layout p).crcAlgorithm (remainderOf (layout p) raw)
        crcRcvd := rcvdOf (layout p).crcAlgorithm (trailerBytes (layout p) raw) } s.hidden.draw) := by
  rw [exec_decInstr_of_input h, decodeResults, decodeBy_of_match hlen hcrc, ← fieldsBy_take_header p raw]
  rfl

end

/-- Settles O39: the outcomes of every decode command at the layout of AOS, the fields read off the frame. -/
theorem decAosResult : Obligations.DecAosResult := by
  intro s raw h
  refine ⟨fun hlen => ⟨_, exec_decInstr_of_short (p := .aos) h hlen⟩,
    fun hlen hcrc => ⟨_, exec_decInstr_of_mismatch (p := .aos) h hlen hcrc⟩, fun hlen hcrc => ?_⟩
  rw [← fieldsAos_eq]
  exact ⟨_, exec_decInstr_of_match (p := .aos) h hlen hcrc⟩

end Sys2Proof.Machine

/-! ## `ENC.P` -/

namespace Sys2Proof.Machine

/-- An encode command over any protocol: the sealed frame and its checksum, every other result cleared (R146, R156,
R166, R176). -/
theorem exec_encInstr_of_input {p : Protocol} {um : Bool} {s : State} {payload body : List Byte}
    (h : s.input = some payload) (hbody : body = encodedHeader (s.metaOf um) payload.length p ++ payload) :
    exec (encInstr um p) s = .next (s.withResults
      ⟨encWord p um, 0x100, body ++ trailerOf (layout p).crcAlgorithm body, [], Extracted.zero,
        crcOf (layout p).crcAlgorithm body, 0⟩ s.hidden.draw) := by
  rw [exec_encInstr, encodeCommand_of_input h, encode_encInstr, encodeResults,
    encodeBy_eq_sealFrame_encodedHeader, rcvdOf_trailerBytes_sealFrame, hbody]
  rfl

/-- The two words of `ENC.P` differ in their `UM` bit alone (R90, R91). -/
theorem encWord_eq_withUm (p : Protocol) (um : Bool) : encWord p um = withUm (encWord p false) um := by
  cases p <;> cases um <;> rfl

/-- Settles O43: the header is that of the `M_*` registers with `UM` and of zeros without. -/
theorem encAosResult : Obligations.EncAosResult := by
  intro s um payload body h hbody
  have hheader : (if um then [s.m.scid.extractLsb' 8 8, s.m.scid.extractLsb' 0 8, s.m.vcid] else [0, 0, 0]) =
      encodedHeader (s.metaOf um) payload.length .aos := by
    cases um with
    | true => rfl
    | false => simp [encodedHeader, State.metaOf, Meta.zero]
  rw [hheader] at hbody
  have hword : withUm 0x4000 um = encWord .aos um := (encWord_eq_withUm .aos um).symm
  rw [hword]
  exact ⟨_, exec_encInstr_of_input (p := .aos) h hbody⟩

end Sys2Proof.Machine

/-! ## The CRC-16 protocols

PUS_TM and PUS_TC carry a 16-bit checksum in 32-bit result registers, zero-extended (R28, R29). -/

namespace Sys2Proof.Machine

/-- The zero half before a CRC-16 in a result register is its zero extension (R28, R29). -/
theorem zero_append_half (v : Half) : (0 : Half) ++ v = v.setWidth 32 :=
  (BitVec.setWidth_eq_append (by decide)).symm

/-- Zero extension keeps two CRC-16 values apart, so a trailer of 16 bits matches in 32-bit registers exactly when its own
bits do (R130). -/
theorem trailerMatches_pusTm_iff {raw : List Byte} :
    TrailerMatches layoutPusTm raw ↔
      crc16Ccitt (raw.take (raw.length - 2)) = u16be (raw.drop (raw.length - 2)) :=
  (setWidth_injective (by decide)).eq_iff

/-- Settles O41: the outcomes of every decode command at the layout of PUS_TM, the CRC-16 of 16 bits in registers of
32. -/
theorem decPusTmResult : Obligations.DecPusTmResult := by
  intro s raw h
  refine ⟨fun hlen => ⟨_, exec_decInstr_of_short (p := .pusTm) h hlen⟩,
    fun hlen hcrc => ⟨_, exec_decInstr_of_mismatch (p := .pusTm) h hlen (mt trailerMatches_pusTm_iff.mp hcrc)⟩,
    fun hlen hcrc => ?_⟩
  rw [zero_append_half, zero_append_half]
  exact ⟨_, exec_decInstr_of_match (p := .pusTm) h hlen (trailerMatches_pusTm_iff.mpr hcrc)⟩

/-- Settles O45: the header is zero but for service and subservice, which are those of the `M_*` registers with `UM` and
zeros without. -/
theorem encPusTmResult : Obligations.EncPusTmResult := by
  intro s um payload body h hbody
  have hheader : [0, 0, 0, 0, 0, 0, if um then s.m.svc else 0, if um then s.m.subsvc else 0, 0, 0, 0, 0] =
      encodedHeader (s.metaOf um) payload.length .pusTm := by
    cases um with
    | true => rfl
    | false => rfl
  rw [hheader] at hbody
  have hword : withUm 0x4002 um = encWord .pusTm um := (encWord_eq_withUm .pusTm um).symm
  rw [hword, zero_append_half]
  exact ⟨_, exec_encInstr_of_input (p := .pusTm) h hbody⟩

end Sys2Proof.Machine

/-! ## Protocols that share a generator

A frame names no protocol and a decoder checks only its length and its trailer (R142, R152, R162, R172), so an accepted
frame is accepted by every protocol with the same generator whose minimum length it reaches (R167). -/

namespace Sys2Proof.Machine

section

variable {p q : Protocol} {raw : List Byte} {m : Message}

/-- An accepted frame, together with what its decoder delivers of it. -/
theorem decodeBy_ok_eq (h : decodeBy p raw = .ok m) :
    m = ⟨raw.take (layout p).headerLength,
      deliveredPayload p ((remainderOf (layout p) raw).drop (layout p).headerLength)⟩ := by
  obtain ⟨-, hlen, hcrc⟩ := decodeBy_ok h
  exact Except.ok.inj (h.symm.trans (decodeBy_of_match (by omega) hcrc))

/-- The generator fixes the width of the trailer (R46). -/
theorem crcWidth_eq_of_crcAlgorithm_eq (hgen : (layout p).crcAlgorithm = (layout q).crcAlgorithm) :
    (layout p).crcWidth = (layout q).crcWidth := by
  rw [← trailerOf_length p [], hgen, trailerOf_length]

/-- Whether a trailer matches depends on the generator alone, not on the length of the header. -/
theorem trailerMatches_iff_of_crcAlgorithm_eq (hgen : (layout p).crcAlgorithm = (layout q).crcAlgorithm) :
    TrailerMatches (layout p) raw ↔ TrailerMatches (layout q) raw := by
  simp only [TrailerMatches, remainderOf, trailerBytes, hgen, crcWidth_eq_of_crcAlgorithm_eq hgen]

/-- A frame accepted under one protocol is accepted under another with its generator, cut where the other header
ends. -/
theorem decodeBy_of_ok_of_crcAlgorithm_eq (hgen : (layout p).crcAlgorithm = (layout q).crcAlgorithm)
    (h : decodeBy p raw = .ok m) (hlen : (layout q).minimumTotalLength ≤ raw.length) :
    decodeBy q raw = .ok ⟨raw.take (layout q).headerLength,
      deliveredPayload q ((remainderOf (layout q) raw).drop (layout q).headerLength)⟩ := by
  obtain ⟨-, -, hcrc⟩ := decodeBy_ok h
  exact decodeBy_of_match hlen ((trailerMatches_iff_of_crcAlgorithm_eq hgen).mp hcrc)

end

/-- Settles O38: PUS_TM has the generator of PUS_TC and CCSDS that of AOS; PUS_TM cuts two bytes behind PUS_TC. -/
theorem frameOfSharedGeneratorIsAccepted : Obligations.FrameOfSharedGeneratorIsAccepted := by
  refine ⟨fun f m h => ⟨fun hlen => ?_, fun hlen => decodeBy_of_short (p := .pusTm) hlen⟩,
    fun f m h => ⟨fun hlen => ?_, fun hlen => decodeBy_of_short (p := .ccsds) hlen⟩⟩
  · have hcut : m.payload.drop 2 = (remainderOf layoutPusTm f).drop 12 := by
      rw [decodeBy_ok_eq (p := .pusTc) h]
      exact List.drop_drop
    rw [hcut]
    exact decodeBy_of_ok_of_crcAlgorithm_eq (p := .pusTc) (q := .pusTm) rfl h hlen
  · exact decodeBy_of_ok_of_crcAlgorithm_eq (p := .aos) (q := .ccsds) rfl h hlen

end Sys2Proof.Machine

/-! ## The commands of PUS_TC -/

namespace Sys2Proof.Machine

/-- PUS_TC has the trailer of PUS_TM, which matches in 32-bit registers exactly when its own 16 bits do (R130). -/
theorem trailerMatches_pusTc_iff {raw : List Byte} :
    TrailerMatches layoutPusTc raw ↔
      crc16Ccitt (raw.take (raw.length - 2)) = u16be (raw.drop (raw.length - 2)) :=
  (trailerMatches_iff_of_crcAlgorithm_eq (p := .pusTc) (q := .pusTm) rfl).trans trailerMatches_pusTm_iff

/-- Settles O42: the outcomes of every decode command at the layout of PUS_TC. -/
theorem decPusTcResult : Obligations.DecPusTcResult := by
  intro s raw h
  refine ⟨fun hlen => ⟨_, exec_decInstr_of_short (p := .pusTc) h hlen⟩,
    fun hlen hcrc => ⟨_, exec_decInstr_of_mismatch (p := .pusTc) h hlen (mt trailerMatches_pusTc_iff.mp hcrc)⟩,
    fun hlen hcrc => ?_⟩
  rw [zero_append_half, zero_append_half]
  exact ⟨_, exec_decInstr_of_match (p := .pusTc) h hlen (trailerMatches_pusTc_iff.mpr hcrc)⟩

/-- Settles O46: service and subservice lead the header, taken from the `M_*` registers with `UM` and zeros without. -/
theorem encPusTcResult : Obligations.EncPusTcResult := by
  intro s um payload body h hbody
  have hheader : [if um then s.m.svc else 0, if um then s.m.subsvc else 0, 0, 0, 0, 0, 0, 0, 0, 0] =
      encodedHeader (s.metaOf um) payload.length .pusTc := by
    cases um with
    | true => rfl
    | false => rfl
  rw [hheader] at hbody
  have hword : withUm 0x4003 um = encWord .pusTc um := (encWord_eq_withUm .pusTc um).symm
  rw [hword, zero_append_half]
  exact ⟨_, exec_encInstr_of_input (p := .pusTc) h hbody⟩

end Sys2Proof.Machine

/-! ## The commands of CCSDS -/

namespace Sys2Proof.Machine

/-- Settles O40: the outcomes of every decode command at the layout of CCSDS, the fields read off the frame. -/
theorem decCcsdsResult : Obligations.DecCcsdsResult := by
  intro s raw h
  refine ⟨fun hlen => ⟨_, exec_decInstr_of_short (p := .ccsds) h hlen⟩,
    fun hlen hcrc => ⟨_, exec_decInstr_of_mismatch (p := .ccsds) h hlen hcrc⟩, fun hlen hcrc => ?_⟩
  rw [← fieldsCcsds_eq]
  exact ⟨_, exec_decInstr_of_match (p := .ccsds) h hlen hcrc⟩

/-- Settles O44: packet type, sequence count and `apid` come from the `M_*` registers with `UM` and are zeros without;
`packetLength` follows the payload in both. -/
theorem encCcsdsResult : Obligations.EncCcsdsResult := by
  intro s um payload body h hbody
  have hheader : [0x00, if um then s.m.ptype else 0, 0x00, 0x00, if um then s.m.seq.extractLsb' 8 8 else 0,
      if um then s.m.seq.extractLsb' 0 8 else 0, if um then s.m.apid else 0,
      BitVec.ofNat 8 ((payload.length + 6) / 256), BitVec.ofNat 8 (payload.length + 6)] =
      encodedHeader (s.metaOf um) payload.length .ccsds := by
    cases um with
    | true => rfl
    | false => simp [encodedHeader, State.metaOf, Meta.zero]
  rw [hheader] at hbody
  have hword : withUm 0x4001 um = encWord .ccsds um := (encWord_eq_withUm .ccsds um).symm
  rw [hword]
  exact ⟨_, exec_encInstr_of_input (p := .ccsds) h hbody⟩

end Sys2Proof.Machine

/-! ## `CONV.S.T`

A conversion over any two protocols: equal ones pass the bytes through (R182); between different ones a decode failure
is wrapped (R217), and otherwise the payload alone goes on to the target's encoder (R183, R184). -/

namespace Sys2Proof.Machine

/-- The two words of `CONV.S.T` differ in their `UM` bit alone (R90, R91). -/
theorem convWord_eq_withUm (p q : Protocol) (um : Bool) : convWord p q um = withUm (convWord p q false) um := by
  cases p <;> cases q <;> cases um <;> rfl

section

variable {p q : Protocol} {raw : List Byte}

/-- A failure of the source's decoder is wrapped (R183, R217). -/
theorem convert_of_decodeBy_error {k : DecodeError} (hpq : p ≠ q) (h : decodeBy p raw = .error k) (m : Meta) :
    convert p q raw m = .error (.conversionFailed k) := by
  rw [convert, if_neg hpq, h]

/-- Of a decoded frame the target's encoder gets the payload alone (R183). -/
theorem convert_of_decodeBy_ok {msg : Message} (hpq : p ≠ q) (h : decodeBy p raw = .ok msg) (m : Meta) :
    convert p q raw m = .ok (encodeBy q msg.payload m) := by
  rw [convert, if_neg hpq, h]

variable {um : Bool} {s : State}

theorem exec_convInstr_of_input (h : s.input = some raw) (um : Bool) (p q : Protocol) :
    exec (convInstr um p q) s = .next (s.withResults
      (convertResults (convWord p q um) (convert p q raw (s.metaOf um))) (s.drawUnless (p == q)).hidden) := by
  rw [exec_convInstr, convertCommand_of_input h, encode_convInstr]

/-- A passthrough answers its input and runs no generator (R182). -/
theorem exec_convInstr_self (h : s.input = some raw) (um : Bool) (p : Protocol) :
    exec (convInstr um p p) s =
      .next (s.withResults (Results.output (withUm (convWord p p false) um) raw) s.hidden) := by
  rw [exec_convInstr_of_input h, convert_same, beq_self_eq_true, State.drawUnless_true, convWord_eq_withUm]
  rfl

theorem exec_convInstr_of_short (h : s.input = some raw) (hpq : p ≠ q)
    (hlen : raw.length < (layout p).minimumTotalLength) :
    ∃ hid, exec (convInstr um p q) s =
      .next (s.withResults (Results.error (withUm (convWord p q false) um) 0x124) hid) := by
  rw [exec_convInstr_of_input h, convert_of_decodeBy_error hpq (decodeBy_of_short hlen), convWord_eq_withUm]
  exact ⟨_, rfl⟩

theorem exec_convInstr_of_mismatch (h : s.input = some raw) (hpq : p ≠ q)
    (hlen : (layout p).minimumTotalLength ≤ raw.length) (hcrc : ¬ TrailerMatches (layout p) raw) :
    ∃ hid, exec (convInstr um p q) s =
      .next (s.withResults (Results.error (withUm (convWord p q false) um) 0x134) hid) := by
  rw [exec_convInstr_of_input h, convert_of_decodeBy_error hpq (decodeBy_of_mismatch hlen hcrc), convWord_eq_withUm]
  exact ⟨_, rfl⟩

theorem exec_convInstr_of_match (h : s.input = some raw) (hpq : p ≠ q)
    (hlen : (layout p).minimumTotalLength ≤ raw.length) (hcrc : TrailerMatches (layout p) raw) :
    ∃ hid, exec (convInstr um p q) s = .next (s.withResults (Results.output (withUm (convWord p q false) um)
      (encodeBy q (deliveredPayload p ((remainderOf (layout p) raw).drop (layout p).headerLength))
        (s.metaOf um))) hid) := by
  rw [exec_convInstr_of_input h, convert_of_decodeBy_ok hpq (decodeBy_of_match hlen hcrc), convWord_eq_withUm]
  exact ⟨_, rfl⟩

/-- A row of the conversion matrix (R184): the command, its word, and the encoder it ends with. -/
def convRow (um : Bool) (p q : Protocol) : Instr × Half × (List Byte → Meta → List Byte) :=
  (convInstr um p q, withUm (convWord p q false) um, encodeBy q)

/-- The three outcomes of every conversion from one protocol to others, `ok` being any spelling of the trailer's
check. -/
theorem exec_convRow_outcomes {ok : Prop} {targets : List Protocol} (h : s.input = some raw) (hp : p ∉ targets)
    (hok : TrailerMatches (layout p) raw ↔ ok) :
    ∀ e ∈ targets.map (convRow um p),
      (raw.length < (layout p).minimumTotalLength →
        ∃ hid, exec e.1 s = .next (s.withResults (Results.error e.2.1 0x124) hid)) ∧
      ((layout p).minimumTotalLength ≤ raw.length → ¬ ok →
        ∃ hid, exec e.1 s = .next (s.withResults (Results.error e.2.1 0x134) hid)) ∧
      ((layout p).minimumTotalLength ≤ raw.length → ok →
        ∃ hid, exec e.1 s = .next (s.withResults (Results.output e.2.1
          (e.2.2 (deliveredPayload p ((remainderOf (layout p) raw).drop (layout p).headerLength))
            (s.metaOf um))) hid)) := by
  refine List.forall_mem_map.mpr fun q hq => ?_
  have hpq : p ≠ q := fun e => hp (e ▸ hq)
  exact ⟨exec_convInstr_of_short h hpq, fun hlen hcrc => exec_convInstr_of_mismatch h hpq hlen (mt hok.mp hcrc),
    fun hlen hcrc => exec_convInstr_of_match h hpq hlen (hok.mpr hcrc)⟩

end

/-- Settles O47: the passthrough of every protocol, at the four words of R98. -/
theorem passthroughReturnsItsInput : Obligations.PassthroughReturnsItsInput := fun _ um _ h =>
  ⟨exec_convInstr_self h um .aos, exec_convInstr_self h um .ccsds, exec_convInstr_self h um .pusTm,
    exec_convInstr_self h um .pusTc⟩

/-- Settles O48: the outcomes of the cross conversions at the layout of AOS. -/
theorem convFromAosResult : Obligations.ConvFromAosResult := fun _ _ _ h =>
  exec_convRow_outcomes (p := .aos) (targets := [.ccsds, .pusTm, .pusTc]) h (by decide) Iff.rfl

/-- Settles O49: the outcomes of the cross conversions at the layout of CCSDS. -/
theorem convFromCcsdsResult : Obligations.ConvFromCcsdsResult := fun _ _ _ h =>
  exec_convRow_outcomes (p := .ccsds) (targets := [.aos, .pusTm, .pusTc]) h (by decide) Iff.rfl

/-- Settles O50: the outcomes of the cross conversions at the layout of PUS_TM, its trailer compared in 16 bits. -/
theorem convFromPusTmResult : Obligations.ConvFromPusTmResult := fun _ _ _ h =>
  exec_convRow_outcomes (p := .pusTm) (targets := [.aos, .ccsds, .pusTc]) h (by decide) trailerMatches_pusTm_iff

/-- Settles O51: the outcomes of the cross conversions at the layout of PUS_TC, its trailer compared in 16 bits. -/
theorem convFromPusTcResult : Obligations.ConvFromPusTcResult := fun _ _ _ h =>
  exec_convRow_outcomes (p := .pusTc) (targets := [.aos, .ccsds, .pusTm]) h (by decide) trailerMatches_pusTc_iff

/-- Settles O53: the target's encoder seals the source's payload, so its decoder gives that payload and the header of
the parameters back. -/
theorem conversionKeepsThePayload : Obligations.ConversionKeepsThePayload := by
  intro p q raw m msg hpq h
  obtain ⟨-, header, hheader, -, hfields, hdecode⟩ := decodeOfEncodedFrame q msg.payload m
  exact ⟨_, header, convert_of_decodeBy_ok hpq h m, hdecode, hheader, hfields⟩

end Sys2Proof.Machine

/-! ## The length of a conversion's output -/

namespace Sys2Proof.Machine

/-- The bytes a decoder drops from the front of a frame's payload: three where AOS finds its magic bytes (R143). -/
def strippedLength (p : Protocol) (payload : List Byte) : Nat :=
  if p = .aos ∧ 3 ≤ payload.length ∧ payload.take 3 = magicPrefix then 3 else 0

theorem deliveredPayload_length_add (p : Protocol) (payload : List Byte) :
    (deliveredPayload p payload).length + strippedLength p payload = payload.length := by
  unfold deliveredPayload strippedLength
  by_cases hp : p = .aos
  · rcases stripMagic_cases payload with ⟨hlen, hmagic, e⟩ | ⟨hnot, e⟩
    · rw [if_pos hp, e, if_pos ⟨hp, hlen, hmagic⟩, List.length_drop]
      omega
    · rw [if_pos hp, e, if_neg fun hand => hnot hand.2, Nat.add_zero]
  · rw [if_neg hp, if_neg fun hand => hp hand.1, Nat.add_zero]

/-- The magic bytes of a payload read off the frame: they stand behind the 3-byte header, and the frame needs 10 bytes
to hold them before its trailer (R140, R143). -/
theorem strippedLength_cut (p : Protocol) (raw : List Byte) :
    strippedLength p ((remainderOf (layout p) raw).drop (layout p).headerLength) =
      if p = .aos ∧ 10 ≤ raw.length ∧ (raw.drop 3).take 3 = [0x00, 0x7B, 0x7C] then 3 else 0 := by
  unfold strippedLength
  refine if_congr (and_congr_right ?_) rfl rfl
  rintro rfl
  have hlen : 3 ≤ ((remainderOf layoutAos raw).drop 3).length ↔ 10 ≤ raw.length := by
    rw [List.length_drop, remainderOf_length, show layoutAos.crcWidth = 4 from rfl]
    omega
  refine (and_congr_left' hlen).trans (and_congr_right fun h10 => ?_)
  have hmagic : ((remainderOf layoutAos raw).drop 3).take 3 = (raw.drop 3).take 3 := by
    rw [remainderOf, show layoutAos.crcWidth = 4 from rfl, List.drop_take, List.take_take,
      Nat.min_eq_left (by omega)]
  exact Eq.congr_left hmagic

/-- The output of a cross conversion is the payload between the target's header and trailer in place of the source's
(R200). -/
theorem convert_ok_length_add {p q : Protocol} {raw out : List Byte} {m : Meta} (hpq : p ≠ q)
    (h : convert p q raw m = .ok out) :
    out.length + minimumLength p +
        strippedLength p ((remainderOf (layout p) raw).drop (layout p).headerLength) =
      raw.length + minimumLength q := by
  rcases convert_cross hpq raw m with ⟨k, -, e⟩ | ⟨msg, hmsg, e⟩ <;> rw [h] at e
  · cases e
  · cases e
    obtain ⟨-, hlen, -⟩ := decodeBy_ok hmsg
    have hpayload := deliveredPayload_length_add p ((remainderOf (layout p) raw).drop (layout p).headerLength)
    rw [List.length_drop, remainderOf_length] at hpayload
    rw [encodeBy_length, decodeBy_ok_eq hmsg, ← layout_minimumTotalLength, ← layout_minimumTotalLength]
    simp only [FrameLayout.minimumTotalLength] at hlen ⊢
    omega

/-- No error is reported as `0x100` (R24, R211). -/
theorem code_ne_success (e : CmdError) : e.code ≠ 0x100 := by
  cases e with
  | conversionFailed k => cases k <;> decide
  | formatUnknown => decide
  | tooShort => decide
  | checksumMismatch => decide
  | illegalCommand => decide

/-- Only a conversion that answers a frame ends with `STATUS` `0x100`. -/
theorem convert_ok_of_success {p q : Protocol} {c : Half} {raw : List Byte} {m : Meta}
    (h : (convertResults c (convert p q raw m)).status = 0x100) : ∃ out, convert p q raw m = .ok out := by
  cases e : convert p q raw m with
  | ok out => exact ⟨out, rfl⟩
  | error err =>
    rw [e] at h
    exact absurd h (code_ne_success err)

/-- Settles O52: the payload keeps its length but for the magic bytes. -/
theorem conversionOutputLength : Obligations.ConversionOutputLength := by
  intro s t p q um raw h hexec hstatus
  rw [exec_convInstr_of_input h] at hexec
  cases hexec
  obtain ⟨out, hout⟩ := convert_ok_of_success hstatus
  rw [State.withResults_obuf, hout, ← State.input_length h]
  refine ⟨?_, fun hpq => ?_⟩
  · rintro rfl
    rw [convert_same] at hout
    cases hout
    rfl
  · rw [← strippedLength_cut]
    exact convert_ok_length_add hpq hout

end Sys2Proof.Machine

/-! ## Rejected command words

A word that decodes to nothing (R97 steps 2 and 3) raises its error bare and ends there: the input is not read, so the
write goes on from every state (R212, R215). -/

namespace Sys2Proof.Machine

/-- The error a rejected word raises (R212, R215). -/
def raisedBy : Reject → CmdError
  | .illegalCommand => .illegalCommand
  | .formatUnknown => .formatUnknown

/-- What an error leaves, as a result state: the hidden registers and all that is not a result stay (R216). -/
theorem State.raise_eq_withResults (e : CmdError) (c : Half) (s : State) :
    s.raise e c = s.withResults (Results.error c e.code) s.hidden := rfl

/-- A rejected word runs no command: its write only raises the error. -/
theorem writeCmd_of_rejected {w : Word} {r : Reject} (hd : decode w = .error r) (s : State) :
    writeCmd w s = .next (s.raise (raisedBy r) (commandOf w)) := by
  cases r with
  | illegalCommand => rw [writeCmd, hd]; rfl
  | formatUnknown => rw [writeCmd, hd]; rfl

/-- One step for a rejected word: the error's results, and nothing else but the event taken off the port. -/
theorem step_of_rejected {s : State} {w : Word} {r : Reject} {rest : List PortEvent}
    (hp : s.port = .access (.write .reg 0x00 4 w) :: rest) (hd : decode w = .error r) :
    step s = .next (State.withResults (Results.error (commandOf w) (raisedBy r).code) s.hidden { s with port := rest }) := by
  rw [step_write_reg (r := .cmd) hp, writeReg, writeCmd_of_rejected hd, State.raise_eq_withResults]

/-- Settles O6: an illegal word is rejected, and the code of `IllegalCommand` is `0x105`. -/
theorem illegalWordRaisesIllegalCommand : Obligations.IllegalWordRaisesIllegalCommand :=
  fun _ _ _ hp hillegal => step_of_rejected hp (decode_of_not_legal hillegal)

/-- Settles O7: an unknown tag is rejected before the command is known, so `CONV` never gets to wrap the error or to
compare its tags; the code of `FormatUnknown` is `0x101`. -/
theorem unknownTagRaisesFormatUnknown : Obligations.UnknownTagRaisesFormatUnknown :=
  fun _ _ _ hp hlegal htag => step_of_rejected hp (decode_of_unknownTag hlegal htag)

end Sys2Proof.Machine

/-! ## The reset state

What the reset input leaves (R240), and what the commands straight after reset do (R243): the input is empty and the
metadata zero, so their results are those of no bytes and of zero parameters. -/

namespace Sys2Proof.Machine

/-- Settles O2: the reset input is an event of the port like any other. -/
theorem resetInputRestoresTheResetState : Obligations.ResetInputRestoresTheResetState := fun s _ hp =>
  ⟨s.hidden.draw, step_event hp⟩

theorem reset_input : State.reset.input = some [] := rfl

/-- With or without `UM`, the encode parameters after reset are zero (R48, R95). -/
theorem reset_metaOf (um : Bool) : State.reset.metaOf um = Meta.zero := ite_self Meta.zero

/-- The word of a command, fetched at reset, runs that command on the reset state itself. -/
theorem step_reset_withFetchWord (i : Instr) :
    step (State.reset.withFetchWord 16 (encode i).toNat) = exec i State.reset := by
  have hdecode : decode (BitVec.ofNat 32 ((encode i).toNat % 2 ^ 16)) = .ok i := by
    rw [Nat.mod_eq_of_lt (encode i).isLt, BitVec.ofNat_toNat]
    exact decodeOfEncode i
  exact stepRunsTheDecodedCommand _ _ i [] rfl hdecode

/-- No bytes are too short a frame for every protocol (R46). -/
theorem length_nil_lt_minimumTotalLength (p : Protocol) :
    ([] : List Byte).length < (layout p).minimumTotalLength := by
  cases p <;> decide

theorem step_reset_crc32 :
    ∃ t, step (State.reset.withFetchWord 16 0x1000) = .next t ∧ t.status = 0x100 ∧ t.crcCalc = 0x00000000 := by
  obtain ⟨hid, hexec⟩ := crc32CommandResult State.reset [] reset_input
  obtain ⟨hempty, -⟩ := checksumCornerValues
  exact ⟨_, (step_reset_withFetchWord .crc32).trans hexec, rfl, hempty⟩

theorem step_reset_crc16 :
    ∃ t, step (State.reset.withFetchWord 16 0x2000) = .next t ∧ t.status = 0x100 ∧ t.crcCalc = 0x0000FFFF := by
  obtain ⟨hid, hexec⟩ := crc16CommandResult State.reset [] reset_input
  obtain ⟨-, -, -, -, hempty, -⟩ := checksumCornerValues
  exact ⟨_, (step_reset_withFetchWord .crc16).trans hexec, rfl, congrArg ((0 : Half) ++ ·) hempty⟩

theorem step_reset_decWord (p : Protocol) :
    ∃ t, step (State.reset.withFetchWord 16 (decWord p).toNat) = .next t ∧ t.status = 0x102 := by
  rw [← encode_decInstr, step_reset_withFetchWord,
    exec_decInstr_of_short reset_input (length_nil_lt_minimumTotalLength p)]
  exact ⟨_, rfl, rfl⟩

/-- The frame of no payload and zero metadata, whichever the `UM` bit. -/
theorem step_reset_encWord (p : Protocol) (um : Bool) :
    ∃ t, step (State.reset.withFetchWord 16 (encWord p um).toNat) = .next t ∧ t.status = 0x100 ∧
      t.obuf = encodeBy p [] Meta.zero := by
  rw [← encode_encInstr, step_reset_withFetchWord, exec_encInstr, encodeCommand_of_input reset_input, reset_metaOf]
  exact ⟨_, rfl, rfl, rfl⟩

theorem step_reset_convWord_self (p : Protocol) (um : Bool) :
    ∃ t, step (State.reset.withFetchWord 16 (convWord p p um).toNat) = .next t ∧ t.status = 0x100 ∧ t.obuf = [] := by
  rw [← encode_convInstr, step_reset_withFetchWord, exec_convInstr_self reset_input]
  exact ⟨_, rfl, rfl, rfl⟩

/-- The failure of the source's decoder is wrapped (R217). -/
theorem step_reset_convWord_cross {p q : Protocol} (hpq : p ≠ q) (um : Bool) :
    ∃ t, step (State.reset.withFetchWord 16 (convWord p q um).toNat) = .next t ∧ t.status = 0x124 := by
  obtain ⟨hid, hexec⟩ :=
    exec_convInstr_of_short (um := um) reset_input hpq (length_nil_lt_minimumTotalLength p)
  rw [← encode_convInstr, step_reset_withFetchWord, hexec]
  exact ⟨_, rfl, rfl⟩

/-- `UM` is bit 8 (R90). -/
theorem encWord_true_toNat (p : Protocol) : (encWord p true).toNat = (encWord p false).toNat + 0x100 := by
  cases p <;> rfl

/-- The protocols in the order of their tags (R92). -/
def protocols : List Protocol := [.aos, .ccsds, .pusTm, .pusTc]

/-- The pairs of different protocols, in the order of the conversion matrix (R184). -/
def crossPairs : List (Protocol × Protocol) := (protocols ×ˢ protocols).filter fun pq => pq.1 ≠ pq.2

/-- The minimum frames of R243 are what the encoders make of no payload and zero metadata. -/
theorem minimumFrames_eq_encodeBy :
    [(0x4000, ([0x00, 0x00, 0x00, 0xFF, 0x41, 0xD9, 0x12] : List Byte)),
      (0x4001, zeros 8 ++ [0x06, 0x0F, 0x6A, 0xB1, 0x9B]), (0x4002, zeros 12 ++ [0x84, 0xF9]),
      (0x4003, zeros 10 ++ [0xE1, 0x39])] =
      protocols.map fun p => ((encWord p false).toNat, encodeBy p [] Meta.zero) := by
  decide +kernel

/-- Settles O54: the words listed are those of the commands of each family, over all protocols. -/
theorem commandsStraightAfterReset : Obligations.CommandsStraightAfterReset := by
  have hdec : [0x3000, 0x3010, 0x3020, 0x3030] = protocols.map fun p => (decWord p).toNat := rfl
  have hself : [0x5000, 0x5011, 0x5022, 0x5033] = protocols.map fun p => (convWord p p false).toNat := rfl
  have hcross : [0x5001, 0x5002, 0x5003, 0x5010, 0x5012, 0x5013, 0x5020, 0x5021, 0x5023, 0x5030, 0x5031, 0x5032] =
      crossPairs.map fun pq => (convWord pq.1 pq.2 false).toNat := rfl
  unfold Obligations.CommandsStraightAfterReset
  rw [hdec, minimumFrames_eq_encodeBy, hself, hcross]
  simp only [List.forall_mem_map]
  refine ⟨?_, fun p _ => step_reset_decWord p, fun p _ => ?_, fun p _ => step_reset_convWord_self p false,
    fun pq hpq => step_reset_convWord_cross (by simpa using List.of_mem_filter hpq) false⟩
  · exact List.forall_mem_cons.mpr ⟨step_reset_crc32, List.forall_mem_singleton.mpr step_reset_crc16⟩
  · obtain ⟨t, ht, htstatus, htobuf⟩ := step_reset_encWord p false
    obtain ⟨u, hu, hustatus, huobuf⟩ := step_reset_encWord p true
    rw [encWord_true_toNat] at hu
    exact ⟨t, u, ht, htstatus, htobuf, hu, hustatus, huobuf⟩

end Sys2Proof.Machine
